-- ==== Sys2Proof/Word.lean ====
section
/-! DEFINITION. The units of data of the machine: the 16-bit Word (spec 00_scope.md R5), the 8-bit console
character (R4 `CHARW`, R14) and the register index (10_state.md R21). -/

namespace Sys2Proof

/-- A Word, "the universal unit of memory, registers, and instruction encoding" (00_scope.md R5); `+` on it is
the spec's `+16` (R8). -/
abbrev Word := BitVec 16

/-- A console character or output value (00_scope.md R14), and one half of a Word (20_memory.md R51). -/
abbrev Byte := BitVec 8

/-- A register index: the 3-bit value `i` of a register field names Ri (10_state.md R21, 30_encoding.md R82). -/
abbrev Reg := Fin 8

/-- The three conditions COND can stand for (10_state.md R28). -/
inductive CondFlag where
  | positive
  | zero
  | negative
  deriving DecidableEq, Repr, Inhabited

end Sys2Proof
end

