-- ==== Sys2Proof/Syntax.lean ====
section
/-! DEFINITION. The instructions: one constructor per row of spec/opcode_table.json (30_encoding.md R84, R102), with the
fields of the formats of R81. The Words and their bits are Decode.lean's. -/

namespace Sys2Proof

/-- The sixteen opcode names (30_encoding.md R84). `jsr` is the one opcode of JSR and JSRR. -/
inductive Opcode where
  | br | add | ld | st | jsr | and | ldr | str | rti | not | ldi | sti | jmp | res | lea | trap
  deriving DecidableEq, Repr

/-- The six built-in trap services (43_trap_system.md R181). -/
inductive TrapService where
  | getc | out | puts | inp | putsp | halt
  deriving DecidableEq, Repr

/-- One instruction. A bit that a handler does not extract is no field (30_encoding.md R86). -/
inductive Instr where
  /-- BR (41_control.md R131): `mask` is ir[11:9], that is n, z, p from its high bit down. -/
  | br (mask : BitVec 3) (off : BitVec 9)
  /-- ADD, register form (40_arith_logic.md R111). -/
  | addReg (dr sr1 sr2 : Reg)
  /-- ADD, immediate form (R112). -/
  | addImm (dr sr1 : Reg) (imm : BitVec 5)
  /-- LD (42_load_store.md R151). -/
  | ld (dr : Reg) (off : BitVec 9)
  /-- ST (R155): `sr` is the register stored, ir[11:9] (90_conflicts.md C5). -/
  | st (sr : Reg) (off : BitVec 9)
  /-- JSR, PC-relative (41_control.md R133). -/
  | jsr (off : BitVec 11)
  /-- JSRR, register (R135). -/
  | jsrr (base : Reg)
  /-- AND, register form (40_arith_logic.md R113). -/
  | andReg (dr sr1 sr2 : Reg)
  /-- AND, immediate form (R114). -/
  | andImm (dr sr1 : Reg) (imm : BitVec 5)
  /-- LDR (42_load_store.md R153). -/
  | ldr (dr base : Reg) (off : BitVec 6)
  /-- STR (R157): `sr` is the register stored. -/
  | str (sr base : Reg) (off : BitVec 6)
  /-- RTI, reserved (43_trap_system.md R190). -/
  | rti
  /-- NOT (40_arith_logic.md R115). -/
  | not (dr sr : Reg)
  /-- LDI (42_load_store.md R152). -/
  | ldi (dr : Reg) (off : BitVec 9)
  /-- STI (R156): `sr` is the register stored. -/
  | sti (sr : Reg) (off : BitVec 9)
  /-- JMP (41_control.md R132). -/
  | jmp (base : Reg)
  /-- RES, reserved (43_trap_system.md R191). -/
  | res
  /-- LEA (42_load_store.md R154). -/
  | lea (dr : Reg) (off : BitVec 9)
  /-- TRAP, the generic row (43_trap_system.md R180, R188). The decoder gives it for the vectors outside the six. -/
  | trap (vector : BitVec 8)
  /-- TRAP GETC (R182). -/
  | trapGetc
  /-- TRAP OUT (R183). -/
  | trapOut
  /-- TRAP PUTS (R184). -/
  | trapPuts
  /-- TRAP IN (R185). -/
  | trapIn
  /-- TRAP PUTSP (R186). -/
  | trapPutsp
  /-- TRAP HALT (R187). -/
  | trapHalt
  deriving DecidableEq, Repr

end Sys2Proof
end

