-- ==== Sys2Proof/Decode.lean ====
section
/-! DEFINITION. The codec (spec 00_scope.md R6, R7), the opcode and vector numbers (30_encoding.md R84, 43_trap_system.md
R181), the decoder, total on every Word (R88), and after it the encoder, both from the format tables of R81. -/

namespace Sys2Proof

/-- The codec `w[hi:lo]` (00_scope.md R6): the unsigned value of bits `hi` down to `lo`, right-aligned. -/
def slice (w : Word) (hi lo : Nat) : BitVec (hi - lo + 1) := w.extractLsb hi lo

/-- The boolean codec `flag(w, hi, lo)` (00_scope.md R7). -/
def flagBit (w : Word) (hi lo : Nat) : Bool := slice w hi lo != 0

/-- A register field: its 3-bit value is the register's index (30_encoding.md R82). -/
def regAt (w : Word) (hi lo : Nat) (h : hi - lo + 1 = 3 := by decide) : Reg :=
  ((slice w hi lo).cast h).toFin

/-- `OPC_<name>`, the value of ir[15:12] that selects the handler (30_encoding.md R84, decision D1 of the spec;
UNVERIFIED, notes/assumptions/1.md). -/
def opcodeBits : Opcode → BitVec 4
  | .br => 0x0#4
  | .add => 0x1#4
  | .ld => 0x2#4
  | .st => 0x3#4
  | .jsr => 0x4#4
  | .and => 0x5#4
  | .ldr => 0x6#4
  | .str => 0x7#4
  | .rti => 0x8#4
  | .not => 0x9#4
  | .ldi => 0xA#4
  | .sti => 0xB#4
  | .jmp => 0xC#4
  | .res => 0xD#4
  | .lea => 0xE#4
  | .trap => 0xF#4

/-- The handler that ir[15:12] selects (30_encoding.md R84): all sixteen values are in the dispatch table, so no
value is rejected (R89). The last arm is 15, the one value left. -/
def opcodeOfBits (b : BitVec 4) : Opcode :=
  match b.toNat with
  | 0 => .br
  | 1 => .add
  | 2 => .ld
  | 3 => .st
  | 4 => .jsr
  | 5 => .and
  | 6 => .ldr
  | 7 => .str
  | 8 => .rti
  | 9 => .not
  | 10 => .ldi
  | 11 => .sti
  | 12 => .jmp
  | 13 => .res
  | 14 => .lea
  | _ => .trap

/-- `TV_<name>`, the vector of each service (43_trap_system.md R181, decision D2 of the spec; UNVERIFIED,
notes/assumptions/2.md). -/
def serviceVector : TrapService → BitVec 8
  | .getc => 0x20#8
  | .out => 0x21#8
  | .puts => 0x22#8
  | .inp => 0x23#8
  | .putsp => 0x24#8
  | .halt => 0x25#8

/-- The service a vector identifies, by comparison for equality (43_trap_system.md R180, 30_encoding.md R85); none for
a vector outside the six (R188). -/
def serviceOfVector (v : BitVec 8) : Option TrapService :=
  if v = serviceVector .getc then some .getc
  else if v = serviceVector .out then some .out
  else if v = serviceVector .puts then some .puts
  else if v = serviceVector .inp then some .inp
  else if v = serviceVector .putsp then some .putsp
  else if v = serviceVector .halt then some .halt
  else none

/-- The row a TRAP vector selects: the six refinements first (30_encoding.md R102). -/
def decodeTrap (v : BitVec 8) : Instr :=
  match serviceOfVector v with
  | some .getc => .trapGetc
  | some .out => .trapOut
  | some .puts => .trapPuts
  | some .inp => .trapIn
  | some .putsp => .trapPutsp
  | some .halt => .trapHalt
  | none => .trap v

/-- The decoder: the opcode, then the mode bit (30_encoding.md R83), then the fields of the format (R81). Total and
unambiguous (R88); ignored bits do not matter (R86, decision D8 of the spec; notes/assumptions/17.md). -/
def decode (ir : Word) : Instr :=
  match opcodeOfBits (slice ir 15 12) with
  | .br => .br (slice ir 11 9) (slice ir 8 0)
  | .add =>
    if flagBit ir 5 5 then .addImm (regAt ir 11 9) (regAt ir 8 6) (slice ir 4 0)
    else .addReg (regAt ir 11 9) (regAt ir 8 6) (regAt ir 2 0)
  | .ld => .ld (regAt ir 11 9) (slice ir 8 0)
  | .st => .st (regAt ir 11 9) (slice ir 8 0)
  | .jsr => if flagBit ir 11 11 then .jsr (slice ir 10 0) else .jsrr (regAt ir 8 6)
  | .and =>
    if flagBit ir 5 5 then .andImm (regAt ir 11 9) (regAt ir 8 6) (slice ir 4 0)
    else .andReg (regAt ir 11 9) (regAt ir 8 6) (regAt ir 2 0)
  | .ldr => .ldr (regAt ir 11 9) (regAt ir 8 6) (slice ir 5 0)
  | .str => .str (regAt ir 11 9) (regAt ir 8 6) (slice ir 5 0)
  | .rti => .rti
  | .not => .not (regAt ir 11 9) (regAt ir 8 6)
  | .ldi => .ldi (regAt ir 11 9) (slice ir 8 0)
  | .sti => .sti (regAt ir 11 9) (slice ir 8 0)
  | .jmp => .jmp (regAt ir 8 6)
  | .res => .res
  | .lea => .lea (regAt ir 11 9) (slice ir 8 0)
  | .trap => decodeTrap (slice ir 7 0)

/-- The instruction the decoder reads from the `nbits` low bits of `w` as opcode_table.json numbers them. An
instruction is exactly one Word (30_encoding.md R80), so a longer row is none. -/
def decodeTableWord (nbits w : Nat) : Option Instr :=
  if nbits ≤ 16 then some (decode (BitVec.ofNat 16 (w % 2 ^ nbits))) else none

/-- A field's value in its place: its least significant bit at bit `lo`, zeros elsewhere. -/
def place {n : Nat} (v : BitVec n) (lo : Nat) : Word := v.setWidth 16 <<< lo

/-- The three bits of a register field, in their place (30_encoding.md R82). -/
def placeReg (r : Reg) (lo : Nat) : Word := place (BitVec.ofFin r : BitVec 3) lo

/-- The opcode in ir[15:12] (30_encoding.md R81). -/
def placeOp (op : Opcode) : Word := place (opcodeBits op) 12

/-- Format M9 (30_encoding.md R81): opcode, ir[11:9], pcOffset9. -/
def encodeM9 (op : Opcode) (r : Reg) (off : BitVec 9) : Word := placeOp op ||| placeReg r 9 ||| place off 0

/-- Format M6: opcode, ir[11:9], base in ir[8:6], offset6. -/
def encodeM6 (op : Opcode) (r base : Reg) (off : BitVec 6) : Word :=
  placeOp op ||| placeReg r 9 ||| placeReg base 6 ||| place off 0

/-- Format RR: opcode, dr, sr1, mode bit 5 as 0, ir[4:3] assembled as 0, sr2. -/
def encodeRR (op : Opcode) (dr sr1 sr2 : Reg) : Word :=
  placeOp op ||| placeReg dr 9 ||| placeReg sr1 6 ||| placeReg sr2 0

/-- Format RI: opcode, dr, sr1, mode bit 5 as 1, imm5. -/
def encodeRI (op : Opcode) (dr sr1 : Reg) (imm : BitVec 5) : Word :=
  placeOp op ||| placeReg dr 9 ||| placeReg sr1 6 ||| place 1#1 5 ||| place imm 0

/-- Format JR: opcode, bit 11 as 0 (JSRR's mode; JMP ignores it), base in ir[8:6], the ignored bits as 0. -/
def encodeJR (op : Opcode) (base : Reg) : Word := placeOp op ||| placeReg base 6

/-- Format TV: opcode, ir[11:8] as 0, vector. -/
def encodeTV (v : BitVec 8) : Word := placeOp .trap ||| place v 0

/-- The encoder: the Word of an instruction (30_encoding.md R81), the ignored bits assembled as R100 says (ones for
NOT's ir[5:0], zeros elsewhere). -/
def encode : Instr → Word
  | .br mask off => placeOp .br ||| place mask 9 ||| place off 0
  | .addReg dr sr1 sr2 => encodeRR .add dr sr1 sr2
  | .addImm dr sr1 imm => encodeRI .add dr sr1 imm
  | .ld dr off => encodeM9 .ld dr off
  | .st sr off => encodeM9 .st sr off
  | .jsr off => placeOp .jsr ||| place 1#1 11 ||| place off 0
  | .jsrr base => encodeJR .jsr base
  | .andReg dr sr1 sr2 => encodeRR .and dr sr1 sr2
  | .andImm dr sr1 imm => encodeRI .and dr sr1 imm
  | .ldr dr base off => encodeM6 .ldr dr base off
  | .str sr base off => encodeM6 .str sr base off
  | .rti => placeOp .rti
  | .not dr sr => placeOp .not ||| placeReg dr 9 ||| placeReg sr 6 ||| place 0b111111#6 0
  | .ldi dr off => encodeM9 .ldi dr off
  | .sti sr off => encodeM9 .sti sr off
  | .jmp base => encodeJR .jmp base
  | .res => placeOp .res
  | .lea dr off => encodeM9 .lea dr off
  | .trap v => encodeTV v
  | .trapGetc => encodeTV (serviceVector .getc)
  | .trapOut => encodeTV (serviceVector .out)
  | .trapPuts => encodeTV (serviceVector .puts)
  | .trapIn => encodeTV (serviceVector .inp)
  | .trapPutsp => encodeTV (serviceVector .putsp)
  | .trapHalt => encodeTV (serviceVector .halt)

/-- A row's `match` and `mask` in opcode_table.json: a Word `w` selects the row when `w AND mask = match`
(30_encoding.md R102). -/
structure Row where
  pattern : Word
  mask    : Word
  deriving DecidableEq, Repr

/-- The row of spec/opcode_table.json an instruction stands for, its numbers copied from that table. -/
def tableRow : Instr → Row
  | .br .. => ⟨0x0000#16, 0xF000#16⟩
  | .addReg .. => ⟨0x1000#16, 0xF020#16⟩
  | .addImm .. => ⟨0x1020#16, 0xF020#16⟩
  | .ld .. => ⟨0x2000#16, 0xF000#16⟩
  | .st .. => ⟨0x3000#16, 0xF000#16⟩
  | .jsr .. => ⟨0x4800#16, 0xF800#16⟩
  | .jsrr .. => ⟨0x4000#16, 0xF800#16⟩
  | .andReg .. => ⟨0x5000#16, 0xF020#16⟩
  | .andImm .. => ⟨0x5020#16, 0xF020#16⟩
  | .ldr .. => ⟨0x6000#16, 0xF000#16⟩
  | .str .. => ⟨0x7000#16, 0xF000#16⟩
  | .rti => ⟨0x8000#16, 0xF000#16⟩
  | .not .. => ⟨0x9000#16, 0xF000#16⟩
  | .ldi .. => ⟨0xA000#16, 0xF000#16⟩
  | .sti .. => ⟨0xB000#16, 0xF000#16⟩
  | .jmp .. => ⟨0xC000#16, 0xF000#16⟩
  | .res => ⟨0xD000#16, 0xF000#16⟩
  | .lea .. => ⟨0xE000#16, 0xF000#16⟩
  | .trap .. => ⟨0xF000#16, 0xF000#16⟩
  | .trapGetc => ⟨0xF020#16, 0xF0FF#16⟩
  | .trapOut => ⟨0xF021#16, 0xF0FF#16⟩
  | .trapPuts => ⟨0xF022#16, 0xF0FF#16⟩
  | .trapIn => ⟨0xF023#16, 0xF0FF#16⟩
  | .trapPutsp => ⟨0xF024#16, 0xF0FF#16⟩
  | .trapHalt => ⟨0xF025#16, 0xF0FF#16⟩

end Sys2Proof
end

