-- ==== Sys2Proof/Config.lean ====
section
/-! DEFINITION. What is fixed for the machine (spec 00_scope.md R4) and the one free value: the effect of TRAP vector
0x23, which the spec lets a model take as the parameter `TRAP_IN_EFFECT` (43_trap_system.md R185). The numbers of the
opcodes and trap vectors stand in Decode.lean, the flag bits in Machine/Flags.lean. -/

namespace Sys2Proof.Config

/-- `PC_RESET`: the address of the first fetch (10_state.md R24, 70_reset_and_hazards.md R241). -/
def pcReset : Word := 0x3000#16

/-- `REG_RESET`: the reset value of each general register (10_state.md R23, decision D9 of the spec). -/
def regReset : Word := 0x0000#16

/-- `MEMSIZE`: the number of Words in the memory (20_memory.md R50). -/
def memSize : Nat := 65536

/-- What a cell that nothing has filled reads as, in each of its two bytes: the loader starts from an all-zero array
(20_memory.md R64, decision D11 of the spec). The ONE place that says so. -/
def unfilledByte : Byte := 0x00#8

/-- What TRAP 0x23 leaves when it completes (43_trap_system.md R185): it "may change R0, COND and the two console streams and nothing
else". COND takes one of its three legal values (10_state.md R28); `output` is what it appends to the console
output. -/
structure TrapInResult where
  r0     : Word
  flag   : CondFlag
  input  : List Byte
  output : List Byte
  deriving DecidableEq, Repr, Inhabited

/-- `TRAP_IN_EFFECT`, a FREE VALUE with no body: "a function from (state, console input stream) to (state, console input
stream, output bytes, or hold)" (43_trap_system.md R185). `none` is the hold, so whether the service waits is free too,
with characters on the stream or without. Its arguments are the registers, the PC, COND and the console input stream; the
service makes no memory access (20_memory.md R54), so the memory is none of them (notes/assumptions/11.md). -/
opaque trapInEffect : Vector Word 8 → Word → BitVec 3 → List Byte → Option TrapInResult

end Sys2Proof.Config
end

