-- ==== Sys2Proof/Machine/Flags.lean ====
section
/-! DEFINITION. The condition flags: the bits of COND and the flag rule `setcc` (spec 10_state.md R28, R30; 40_arith_logic.md
R118). -/

namespace Sys2Proof.Machine

/-- `FL_P`, `FL_Z`, `FL_N`: the bit of COND each flag is (10_state.md R28, decision D3 of the spec; UNVERIFIED,
notes/assumptions/3.md). -/
def flagBits : CondFlag → BitVec 3
  | .positive => 0b001#3
  | .zero => 0b010#3
  | .negative => 0b100#3

/-- The flag of a produced value (10_state.md R30): zero is tested first, then bit 15. -/
def flagOf (v : Word) : CondFlag :=
  if v = 0x0000#16 then .zero else if v.msb then .negative else .positive

/-- What `setcc(v)` writes to COND (10_state.md R30, 00_scope.md R12). -/
def condOf (v : Word) : BitVec 3 := flagBits (flagOf v)

end Sys2Proof.Machine
end

