-- ==== Sys2Proof/Machine/State.lean ====
section
/-! DEFINITION. The machine's state as plain data, with every element of the table of spec 10_state.md R20, the reasons a
step can stop, and the state after reset (70_reset_and_hazards.md R240). -/

namespace Sys2Proof.Machine

/-- The memory, kept as (key, byte) pairs. The machine's cell `a` is a whole Word (20_memory.md R50, R51), kept under
the keys `2a` (bits 7:0) and `2a + 1` (bits 15:8): a way of keeping data, no byte address, since every operation of the
model reads or writes the Word (DESIGN CHOICE, safe, notes/assumptions/14.md). A key not listed holds
`Config.unfilledByte`. -/
abbrev Memory := List Host.Cell

/-- The record of the fault latch: the opcode and the instruction's own address (10_state.md R34, 60_exceptions.md
R213). -/
structure DecodeFailure where
  opc  : BitVec 4
  addr : Word
  deriving DecidableEq, Repr

/-- The state: the core's elements and the two console streams (10_state.md R20, R38). -/
structure State where
  /-- R0..R7 (10_state.md R21). -/
  regs       : Vector Word 8
  /-- PC, the address of the next instruction to fetch (R24). -/
  pc         : Word
  /-- COND (R28). -/
  cond       : BitVec 3
  /-- RUN, true while the engine should keep fetching (R33). -/
  run        : Bool
  /-- FAULT, the decode failure latched, if any (R34). -/
  fault      : Option DecodeFailure
  /-- The memory of 65536 Words (R37). -/
  mem        : Memory
  /-- The characters the host has supplied and no service has read yet, the next one first (00_scope.md R14). -/
  consoleIn  : List Byte
  /-- The values written to the console since reset, the oldest first (R14). -/
  consoleOut : List Byte
  deriving DecidableEq, Repr

/-- Why there is no step. In each of the three the state is unchanged (00_scope.md R17, 10_state.md R39). -/
inductive Fault where
  /-- Raised by `step` in a Halted core, RUN = 0 (10_state.md R39): there is no further step. Safe: it is what the spec
  says. -/
  | halted
  /-- Raised by `step` in a Faulted core, with the record of the decode failure (10_state.md R39, 60_exceptions.md R211):
  there is no further step. Safe: it is what the spec says. The step that meets the reserved opcode is a next state,
  with FAULT latched. -/
  | decodeFailed (record : DecodeFailure)
  /-- Raised by GETC, and by IN when its parameter holds, in a Running core: the hold of 00_scope.md R14 and R17, "no step at
  all". It is no exception and does not end the run (10_state.md R40): the state is as it was, PC at the instruction, and
  the step is there once the host has supplied what it waits for (`State.supplyInput`). Safe: it is what the spec says
  (notes/assumptions/9.md). -/
  | awaitingInput
  deriving DecidableEq, Repr

/-- Why an instruction has no meaning. Every arm of `exec` has one, so nothing raises this. -/
inductive Refusal where
  /-- Raised by an arm of `exec` whose instruction is not modelled yet; none is left. Safe: nothing is said of the
  instruction. -/
  | notModelled (mnemonic : String)
  deriving DecidableEq, Repr

/-- The outcome of a step or of a meaning. -/
abbrev Result := Host.Outcome State Fault Refusal

/-- The machine right after reset (70_reset_and_hazards.md R240), with nothing filled in memory and nothing supplied to
the console (notes/assumptions/10.md). PC and RUN are the source's (10_state.md R24, R33); the registers, COND and FAULT
are the spec's decisions (R23, R32, R34; UNVERIFIED, notes/assumptions/5.md, 6.md, 8.md). -/
def State.reset : State where
  regs       := Vector.replicate 8 Config.regReset
  pc         := Config.pcReset
  cond       := flagBits .zero
  run        := true
  fault      := none
  mem        := []
  consoleIn  := []
  consoleOut := []

end Sys2Proof.Machine
end

