-- ==== Sys2Proof/Machine/Ops.lean ====
section
/-! DEFINITION. The named operations over memory, registers and console that every meaning is written with (spec
00_scope.md R10 to R14), the fetch (10_state.md R25), and taking the one exception, DecodeFailure (60_exceptions.md R211).
There is no return from it to model (R217): only the reset event, in Session.lean, leaves the Faulted state. -/

namespace Sys2Proof.Machine

/-! ### Memory -/

/-- The byte kept under a key; one that is not listed is unfilled (20_memory.md R64). -/
def Memory.byteAt : Memory → Nat → Byte
  | [], _ => Config.unfilledByte
  | c :: m, k => if c.1 = k then c.2 else Memory.byteAt m k

/-- Puts a cell before the first greater key. -/
def Memory.insertCell : Memory → Nat → Byte → Memory
  | [], k, b => [(k, b)]
  | c :: m, k, b => if k < c.1 then (k, b) :: c :: m else c :: Memory.insertCell m k b

/-- Sets the byte under a key, keeping the canonical form: an unfilled value is not listed. -/
def Memory.setByte (m : Memory) (k : Nat) (b : Byte) : Memory :=
  let rest := m.filter (fun c => c.1 != k)
  if b = Config.unfilledByte then rest else Memory.insertCell rest k b

/-- `MemRead(a, 1)`: the Word in cell `a` (00_scope.md R11, 20_memory.md R50). Total. -/
def Memory.read (m : Memory) (a : Word) : Word :=
  m.byteAt (2 * a.toNat + 1) ++ m.byteAt (2 * a.toNat)

/-- `MemWrite(a, 1, v)`: cell `a` holds `v`, every other cell is as before (00_scope.md R11, 20_memory.md R50). Total. -/
def Memory.write (m : Memory) (a v : Word) : Memory :=
  (m.setByte (2 * a.toNat) (slice v 7 0)).setByte (2 * a.toNat + 1) (slice v 15 8)

/-- The canonical form: keys strictly rising, all inside the memory, no unfilled value listed. -/
abbrev Memory.wf (m : Memory) : Prop :=
  m.Pairwise (fun c d => c.1 < d.1) ∧ ∀ c ∈ m, c.2 ≠ Config.unfilledByte ∧ c.1 < 2 * Config.memSize

/-! ### Registers, COND and PC -/

/-- `x[r]`, a read (00_scope.md R10). No register is hardwired (10_state.md R21). -/
def State.reg (s : State) (r : Reg) : Word := s.regs[r]

/-- `x[r] <- v` (00_scope.md R10). -/
def State.setReg (s : State) (r : Reg) (v : Word) : State := { s with regs := s.regs.set r v }

/-- `setcc(v)` (00_scope.md R12, 10_state.md R30). -/
def State.setcc (s : State) (v : Word) : State := { s with cond := condOf v }

/-- `PC <- t` (00_scope.md R12). -/
def State.setPc (s : State) (t : Word) : State := { s with pc := t }

/-- The spec's `pc`: PC after the fetch increment, the instruction's address plus one modulo 65536 (00_scope.md R12,
10_state.md R25, R27). A meaning runs on the state before the fetch, so it is computed from the address. -/
def State.nextPc (s : State) : Word := s.pc + 1#16

/-- `PC <- pc`: the fetch increment and nothing else. -/
def State.advance (s : State) : State := s.setPc s.nextPc

/-- The end of every instruction that produces a value: `x[dr] <- v; setcc(v); PC <- pc` (40_arith_logic.md R110,
42_load_store.md R150). -/
def State.writeResult (s : State) (dr : Reg) (v : Word) : State := ((s.setReg dr v).setcc v).advance

/-! ### Memory and fetch through the state -/

/-- `MemRead(a, 1)` of the state's memory. -/
def State.memRead (s : State) (a : Word) : Word := s.mem.read a

/-- `MemWrite(a, 1, v)` of the state's memory. -/
def State.memWrite (s : State) (a v : Word) : State := { s with mem := s.mem.write a v }

/-- The end of every store: `MemWrite(ea, 1, v); PC <- pc` (42_load_store.md R150). -/
def State.storeWord (s : State) (ea v : Word) : State := (s.memWrite ea v).advance

/-- The instruction Word `ir` at PC (10_state.md R25). -/
def State.fetchWord (s : State) : Word := s.memRead s.pc

/-! ### The console -/

/-- `ConsoleIn()`: the next character and the state with it removed; none when the stream holds none, and the caller
holds (00_scope.md R14). -/
def State.consoleTake (s : State) : Option (Byte × State) :=
  match s.consoleIn with
  | [] => none
  | c :: rest => some (c, { s with consoleIn := rest })

/-- `ConsoleOut(b)` for each value in turn (00_scope.md R14). -/
def State.consolePut (s : State) (bs : List Byte) : State := { s with consoleOut := s.consoleOut ++ bs }

/-! ### The exception, and the states without a step -/

/-- TAKING the one exception, `raise DecodeFailure(opc, a)` after the fetch increment (00_scope.md R13, 60_exceptions.md
R211): FAULT takes the opcode and the instruction's own address (R213), PC keeps `a + 1`, nothing else changes; RUN stays
1. It saves nothing and vectors nowhere (R216). -/
def State.raiseDecodeFailure (s : State) (op : Opcode) : State :=
  { s.advance with fault := some ⟨opcodeBits op, s.pc⟩ }

/-- Why the core has no step (10_state.md R39): Faulted, which dominates RUN (60_exceptions.md R211), or Halted; none when
it is Running. -/
def State.stopped (s : State) : Option Fault :=
  match s.fault with
  | some record => some (.decodeFailed record)
  | none => if s.run then none else some .halted

end Sys2Proof.Machine
end

