-- ==== Sys2Proof/Machine/Operands.lean ====
section
/-! DEFINITION. The operand forms: zero-extension (spec 00_scope.md R9, 30_encoding.md R85) and the addressing modes
(42_load_store.md R150). -/

namespace Sys2Proof.Machine

/-- `zext_16`: every immediate, offset and character is brought to a Word by zero-extension, not scaled and not shifted
(00_scope.md R9, 30_encoding.md R85, decision D4 of the spec; UNVERIFIED, notes/assumptions/4.md). -/
def zext16 {n : Nat} (v : BitVec n) : Word := v.setWidth 16

/-- `pc +16 zext_16(offset)`: the target of BR and JSR, the address of LD and ST, the value of LEA (42_load_store.md
R150 modes 1 and 4, 41_control.md R131, R133). -/
def pcRelative {n : Nat} (s : State) (off : BitVec n) : Word := s.nextPc + zext16 off

/-- `Mem[pc +16 zext_16(offset9)]`: the address of LDI and STI (42_load_store.md R150 mode 2). -/
def indirect (s : State) (off : BitVec 9) : Word := s.memRead (pcRelative s off)

/-- `x[base] +16 zext_16(offset6)`: the address of LDR and STR (42_load_store.md R150 mode 3). -/
def baseOffset (s : State) (base : Reg) (off : BitVec 6) : Word := s.reg base + zext16 off

end Sys2Proof.Machine
end

