-- ==== Sys2Proof/Machine/Arith.lean ====
section
/-! DEFINITION. ADD, AND and NOT (spec 40_arith_logic.md). The sources are read before the destination is written (R110),
the sum wraps modulo 65536 (R116), and COND is set from the value written. -/

namespace Sys2Proof.Machine

/-- ADD, register form (R111). -/
def execAddReg (dr sr1 sr2 : Reg) (s : State) : Result := .next (s.writeResult dr (s.reg sr1 + s.reg sr2))

/-- ADD, immediate form (R112). -/
def execAddImm (dr sr1 : Reg) (imm : BitVec 5) (s : State) : Result :=
  .next (s.writeResult dr (s.reg sr1 + zext16 imm))

/-- AND, register form (R113). -/
def execAndReg (dr sr1 sr2 : Reg) (s : State) : Result := .next (s.writeResult dr (s.reg sr1 &&& s.reg sr2))

/-- AND, immediate form (R114). -/
def execAndImm (dr sr1 : Reg) (imm : BitVec 5) (s : State) : Result :=
  .next (s.writeResult dr (s.reg sr1 &&& zext16 imm))

/-- NOT (R115). -/
def execNot (dr sr : Reg) (s : State) : Result := .next (s.writeResult dr (~~~ s.reg sr))

end Sys2Proof.Machine
end

