-- ==== Sys2Proof/Machine/Control.lean ====
section
/-! DEFINITION. BR, JMP, JSR and JSRR (spec 41_control.md). They write PC and nothing else (R130); no return address is
saved (R134, decision D5 of the spec; notes/assumptions/13.md). -/

namespace Sys2Proof.Machine

/-- BR (R131). -/
def execBr (mask : BitVec 3) (off : BitVec 9) (s : State) : Result :=
  .next (s.setPc (if s.cond &&& mask ≠ 0b000#3 then pcRelative s off else s.nextPc))

/-- JMP (R132). -/
def execJmp (base : Reg) (s : State) : Result := .next (s.setPc (s.reg base))

/-- JSR, PC-relative form (R133). -/
def execJsr (off : BitVec 11) (s : State) : Result := .next (s.setPc (pcRelative s off))

/-- JSRR, register form (R135). -/
def execJsrr (base : Reg) (s : State) : Result := .next (s.setPc (s.reg base))

end Sys2Proof.Machine
end

