-- ==== Sys2Proof/Machine/LoadStore.lean ====
section
/-! DEFINITION. The load/store unit (spec 42_load_store.md). Every access is one Word; no access faults (R150). -/

namespace Sys2Proof.Machine

/-- LD (R151). -/
def execLd (dr : Reg) (off : BitVec 9) (s : State) : Result :=
  .next (s.writeResult dr (s.memRead (pcRelative s off)))

/-- LDI (R152): two reads, the pointer and then its target. -/
def execLdi (dr : Reg) (off : BitVec 9) (s : State) : Result :=
  .next (s.writeResult dr (s.memRead (indirect s off)))

/-- LDR (R153): the base is read before the destination is written. -/
def execLdr (dr base : Reg) (off : BitVec 6) (s : State) : Result :=
  .next (s.writeResult dr (s.memRead (baseOffset s base off)))

/-- LEA (R154): the address itself, and it writes the flags. -/
def execLea (dr : Reg) (off : BitVec 9) (s : State) : Result := .next (s.writeResult dr (pcRelative s off))

/-- ST (R155). -/
def execSt (sr : Reg) (off : BitVec 9) (s : State) : Result := .next (s.storeWord (pcRelative s off) (s.reg sr))

/-- STI (R156): one read, of the pointer, then one write. -/
def execSti (sr : Reg) (off : BitVec 9) (s : State) : Result := .next (s.storeWord (indirect s off) (s.reg sr))

/-- STR (R157). -/
def execStr (sr base : Reg) (off : BitVec 6) (s : State) : Result :=
  .next (s.storeWord (baseOffset s base off) (s.reg sr))

end Sys2Proof.Machine
end

