-- ==== Sys2Proof/Machine/Trap.lean ====
section
/-! DEFINITION. TRAP, its six built-in services and the two reserved opcodes (spec 43_trap_system.md). A service runs whole
inside the TRAP instruction's step (R180, 00_scope.md R17); TRAP saves no return address and reads no vector table. -/

namespace Sys2Proof.Machine

/-- GETC (R182): one character, zero-extended, into R0, COND from it. With no character the instruction holds: it has no
step (00_scope.md R14, R17; notes/assumptions/9.md). -/
def serviceGetc (s : State) : Result :=
  match s.consoleTake with
  | none => .fault .awaitingInput
  | some (c, t) => .next (t.writeResult 0 (zext16 c))

/-- OUT (R183): the low byte of R0. -/
def serviceOut (s : State) : State := (s.consolePut [slice (s.reg 0) 7 0]).advance

/-- What a walk over a string in memory gives: the values it outputs, and whether it met the terminator. -/
structure StringWalk where
  bytes : List Byte
  ended : Bool
  deriving DecidableEq, Repr

/-- The loop of PUTS (R184) over at most `n` Words from `p`; the address wraps. -/
def putsWalk (m : Memory) : Nat → Word → StringWalk
  | 0, _ => ⟨[], false⟩
  | n + 1, p =>
    let w := m.read p
    if w = 0x0000#16 then ⟨[], true⟩
    else
      let rest := putsWalk m n (p + 1#16)
      ⟨slice w 7 0 :: rest.bytes, rest.ended⟩

/-- The loop of PUTSP (R186) over at most `n` Words from `p`: low byte, then high byte, up to the first zero byte. -/
def putspWalk (m : Memory) : Nat → Word → StringWalk
  | 0, _ => ⟨[], false⟩
  | n + 1, p =>
    let w := m.read p
    if slice w 7 0 = 0x00#8 then ⟨[], true⟩
    else if slice w 15 8 = 0x00#8 then ⟨[slice w 7 0], true⟩
    else
      let rest := putspWalk m n (p + 1#16)
      ⟨slice w 7 0 :: slice w 15 8 :: rest.bytes, rest.ended⟩

/-- The end of a string output. A string that ends is one step. A string with no terminator in the whole memory never
ends (R184, 70_reset_and_hazards.md R256): after one lap of 65536 Words the walk is back at R0's address, so the step
outputs the lap and stays at the same instruction, an infinite execution (R17's D18 lets a model split it so;
notes/assumptions/12.md). -/
def finishString (s : State) (walk : StringWalk) : State :=
  if walk.ended then (s.consolePut walk.bytes).advance else s.consolePut walk.bytes

/-- PUTS (R184): one Word per character, its low byte, up to a zero Word. -/
def servicePuts (s : State) : State := finishString s (putsWalk s.mem Config.memSize (s.reg 0))

/-- PUTSP (R186): two characters per Word. -/
def servicePutsp (s : State) : State := finishString s (putspWalk s.mem Config.memSize (s.reg 0))

/-- What an effect of IN makes of the instruction. A hold (`none`) is no step (00_scope.md R17; notes/assumptions/9.md); a
service that completes changes R0, COND and the console streams, which is all that R185 lets it change, and PC is one past
the instruction. -/
def applyTrapIn (s : State) (effect : Option Config.TrapInResult) : Result :=
  match effect with
  | none => .fault .awaitingInput
  | some r =>
    .next { (s.setReg 0 r.r0).advance with
      cond := flagBits r.flag
      consoleIn := r.input
      consoleOut := s.consoleOut ++ r.output }

/-- IN (R185): the source's whole description is "buffered line input". What it does, and whether it holds, is the free
value `Config.trapInEffect` (notes/assumptions/11.md). -/
def serviceIn (s : State) : Result := applyTrapIn s (Config.trapInEffect s.regs s.pc s.cond s.consoleIn)

/-- HALT (R187): clears RUN and nothing else; PC stays at `pc`. -/
def serviceHalt (s : State) : State := { s.advance with run := false }

/-- The service a vector identifies (R180, R181). -/
def runService : TrapService → State → Result
  | .getc, s => serviceGetc s
  | .out, s => .next (serviceOut s)
  | .puts, s => .next (servicePuts s)
  | .inp, s => serviceIn s
  | .putsp, s => .next (servicePutsp s)
  | .halt, s => .next (serviceHalt s)

/-- TRAP, the generic row (R180): the service of the vector; a vector outside the six does nothing (R188, decision D7
of the spec; notes/assumptions/16.md). The decoder gives this row for the latter only. -/
def execTrap (vector : BitVec 8) (s : State) : Result :=
  match serviceOfVector vector with
  | some service => runService service s
  | none => .next s.advance

/-- TRAP GETC (R182). -/
def execTrapGetc (s : State) : Result := serviceGetc s

/-- TRAP OUT (R183). -/
def execTrapOut (s : State) : Result := .next (serviceOut s)

/-- TRAP PUTS (R184). -/
def execTrapPuts (s : State) : Result := .next (servicePuts s)

/-- TRAP IN (R185). -/
def execTrapIn (s : State) : Result := serviceIn s

/-- TRAP PUTSP (R186). -/
def execTrapPutsp (s : State) : Result := .next (servicePutsp s)

/-- TRAP HALT (R187). -/
def execTrapHalt (s : State) : Result := .next (serviceHalt s)

/-- RTI (R190): raises DecodeFailure; it restores nothing and returns nowhere. -/
def execRti (s : State) : Result := .next (s.raiseDecodeFailure .rti)

/-- RES (R191): raises DecodeFailure. -/
def execRes (s : State) : Result := .next (s.raiseDecodeFailure .res)

end Sys2Proof.Machine
end

