-- ==== Sys2Proof/Machine/Step.lean ====
section
/-! DEFINITION. One step of the core (spec 00_scope.md R17, 10_state.md R25, R39), and the placing of an instruction where
the next step fetches it. -/

namespace Sys2Proof.Machine

/-- One step: while Running, the instruction at PC is fetched, decoded and executed. A Halted or Faulted core has no
step (10_state.md R39), which is a fault of that name (DEDUCED, notes/assumptions/18.md); neither has a Running core that
holds on console input (R25, 00_scope.md R17), where the instruction itself answers so (notes/assumptions/9.md). -/
def step (s : State) : Host.Outcome State Fault Refusal :=
  match s.stopped with
  | some reason => .fault reason
  | none => exec (decode s.fetchWord) s

/-- `s` with the instruction `w` in the cell at PC, where the next fetch reads it. An instruction is one Word. -/
def State.withFetchWord (s : State) (nbits w : Nat) : State :=
  s.memWrite s.pc (BitVec.ofNat 16 (w % 2 ^ nbits))

end Sys2Proof.Machine
end

