-- ==== Sys2Proof/Machine/Session.lean ====
section
/-! DEFINITION. What the host does to the machine (spec 00_scope.md R15, R16): the reset event, the launch of a session, the
supply of console characters, and the loader's reading of an image file. None of it is part of a step. -/

namespace Sys2Proof.Machine

/-- A session at its start (70_reset_and_hazards.md R240, R243): the reset values, with the memory `mem0` (`MEM0`) the
loader has filled and the console input the host provides. -/
def State.launch (mem0 : Memory) (input : List Byte) : State :=
  { State.reset with mem := mem0, consoleIn := input }

/-- The reset event applied to a Running, Halted or Faulted core (70_reset_and_hazards.md R240, R242): every element of the
core takes its reset value, the memory keeps its contents, the console output of the new session is empty, and its input
is whatever the host provides. -/
def State.resetEvent (s : State) (input : List Byte) : State := State.launch s.mem input

/-- The host supplies console characters during a run (00_scope.md R14, R16). -/
def State.supplyInput (s : State) (chars : List Byte) : State := { s with consoleIn := s.consoleIn ++ chars }

/-- The loader's placing of an image's Words from a cell on, the low byte of each first (70_reset_and_hazards.md R246). An
odd trailing byte or a Word past cell 0xFFFF gives none: the core is not started on such a file (decision D22 of the
spec; notes/assumptions/15.md). -/
def placeWords : Memory → Nat → List Byte → Option Memory
  | m, _, [] => some m
  | _, _, [_] => none
  | m, a, lo :: hi :: rest =>
    if a < Config.memSize then placeWords (m.write (BitVec.ofNat 16 a) (hi ++ lo)) (a + 1) rest else none

/-- The memory an image file gives (70_reset_and_hazards.md R246): two bytes of origin, low byte first, then the Words;
every other cell is unfilled. A file shorter than two bytes gives none. -/
def loadImage : List Byte → Option Memory
  | lo :: hi :: rest => placeWords [] (hi ++ lo : Word).toNat rest
  | _ => none

end Sys2Proof.Machine
end

