-- ==== Sys2Proof/WellFormed.lean ====
section
/-! DEFINITION. Which terms of Instr are instructions of the machine. The field types hold every width already; the one
check left is that the generic TRAP row stands only for the vectors outside the six services, whose rows refine it
(spec 30_encoding.md R102). -/

namespace Sys2Proof

/-- The instruction is one the encoding has, in the row it stands for. -/
def WellFormed : Instr → Bool
  | .trap v => (serviceOfVector v).isNone
  | .br .. | .addReg .. | .addImm .. | .ld .. | .st .. | .jsr .. | .jsrr .. | .andReg .. | .andImm .. => true
  | .ldr .. | .str .. | .rti | .not .. | .ldi .. | .sti .. | .jmp .. | .res | .lea .. => true
  | .trapGetc | .trapOut | .trapPuts | .trapIn | .trapPutsp | .trapHalt => true

end Sys2Proof
end

