-- ==== Sys2Proof/Safety.lean ====
section
/-! DEFINITION. The terms the statements use: the states of the sequencer (spec 10_state.md R39), what a legal COND is, what an
instruction leaves unchanged, which instructions write what (R22, R31), and the invariant of the machine. -/

namespace Sys2Proof.Machine

/-- Running: RUN = 1 and FAULT = none (10_state.md R39). -/
def Running (s : State) : Prop := s.run = true ∧ s.fault = none

/-- The instruction at PC is a character input service that waits (00_scope.md R14, R17): GETC while the console input is empty
(43_trap_system.md R182), or IN when its parameter holds (R185). -/
def Holding (s : State) : Prop :=
  (decode s.fetchWord = .trapGetc ∧ s.consoleIn = []) ∨
    (decode s.fetchWord = .trapIn ∧ Config.trapInEffect s.regs s.pc s.cond s.consoleIn = none)

/-- COND holds one of its three legal values, exactly one bit set (10_state.md R28). -/
def CondLegal (c : BitVec 3) : Prop := ∃ f : CondFlag, c = flagBits f

/-- COND is the flag of the value `v` read as two's complement (10_state.md R29). -/
def CondMatches (c : BitVec 3) (v : Word) : Prop :=
  (v.toInt = 0 → c = flagBits .zero) ∧ (v.toInt < 0 → c = flagBits .negative) ∧
    (0 < v.toInt → c = flagBits .positive)

/-- Every register but `r` is as before. -/
def OtherRegsSame (s t : State) (r : Reg) : Prop := ∀ q, q ≠ r → t.reg q = s.reg q

/-- Every register is as before. -/
def RegsSame (s t : State) : Prop := ∀ q, t.reg q = s.reg q

/-- Every cell of memory reads as before. -/
def MemSame (s t : State) : Prop := ∀ a, t.memRead a = s.memRead a

/-- RUN and FAULT are as before. -/
def ControlSame (s t : State) : Prop := t.run = s.run ∧ t.fault = s.fault

/-- Both console streams are as before. -/
def ConsoleSame (s t : State) : Prop := t.consoleIn = s.consoleIn ∧ t.consoleOut = s.consoleOut

/-- From `s` to `t` the value `v` is written to `dr` and COND set from it, PC moves to the next Word, and nothing else
changes. -/
def ProducesValue (s t : State) (dr : Reg) (v : Word) : Prop :=
  t.reg dr = v ∧ CondMatches t.cond v ∧ t.pc = s.pc + 1#16 ∧
    OtherRegsSame s t dr ∧ MemSame s t ∧ ControlSame s t ∧ ConsoleSame s t

/-- From `s` to `t` PC becomes `target`, and nothing else changes. -/
def OnlyJumps (s t : State) (target : Word) : Prop :=
  t.pc = target ∧ t.cond = s.cond ∧ RegsSame s t ∧ MemSame s t ∧ ControlSame s t ∧ ConsoleSame s t

/-- From `s` to `t` the Word `v` is stored in cell `ea`, PC moves to the next Word, and nothing else changes. -/
def StoresWord (s t : State) (ea v : Word) : Prop :=
  t.memRead ea = v ∧ (∀ a, a ≠ ea → t.memRead a = s.memRead a) ∧ t.pc = s.pc + 1#16 ∧
    t.cond = s.cond ∧ RegsSame s t ∧ ControlSame s t ∧ ConsoleSame s t

/-- From `s` to `t` the values `bs` are appended to the console output, PC becomes `target`, and nothing else changes. -/
def OnlyOutputs (s t : State) (bs : List Byte) (target : Word) : Prop :=
  t.consoleOut = s.consoleOut ++ bs ∧ t.consoleIn = s.consoleIn ∧ t.pc = target ∧
    t.cond = s.cond ∧ RegsSame s t ∧ MemSame s t ∧ ControlSame s t

/-- The register an instruction writes (10_state.md R22): ir[11:9] of the ALU instructions, the loads and LEA, R0 of the
character input services. -/
def destOf : Instr → Option Reg
  | .addReg dr _ _ | .addImm dr _ _ | .andReg dr _ _ | .andImm dr _ _ | .not dr _ => some dr
  | .ld dr _ | .ldi dr _ | .ldr dr _ _ | .lea dr _ => some dr
  | .trapGetc | .trapIn => some 0
  | .br .. | .st .. | .jsr .. | .jsrr .. | .str .. | .rti | .sti .. | .jmp .. | .res => none
  | .trap .. | .trapOut | .trapPuts | .trapPutsp | .trapHalt => none

/-- The instruction stores to memory (20_memory.md R54). -/
def isStore : Instr → Bool
  | .st .. | .sti .. | .str .. => true
  | .br .. | .addReg .. | .addImm .. | .ld .. | .jsr .. | .jsrr .. | .andReg .. | .andImm .. | .ldr .. => false
  | .rti | .not .. | .ldi .. | .jmp .. | .res | .lea .. => false
  | .trap .. | .trapGetc | .trapOut | .trapPuts | .trapIn | .trapPutsp | .trapHalt => false

/-- The instruction may take characters from the console input (10_state.md R38). -/
def readsConsole : Instr → Bool
  | .trapGetc | .trapIn => true
  | .br .. | .addReg .. | .addImm .. | .ld .. | .st .. | .jsr .. | .jsrr .. | .andReg .. | .andImm .. => false
  | .ldr .. | .str .. | .rti | .not .. | .ldi .. | .sti .. | .jmp .. | .res | .lea .. => false
  | .trap .. | .trapOut | .trapPuts | .trapPutsp | .trapHalt => false

/-- The instruction may append to the console output (43_trap_system.md R192). -/
def writesConsole : Instr → Bool
  | .trapOut | .trapPuts | .trapIn | .trapPutsp => true
  | .br .. | .addReg .. | .addImm .. | .ld .. | .st .. | .jsr .. | .jsrr .. | .andReg .. | .andImm .. => false
  | .ldr .. | .str .. | .rti | .not .. | .ldi .. | .sti .. | .jmp .. | .res | .lea .. => false
  | .trap .. | .trapGetc | .trapHalt => false

/-- The bits of an instruction's Word that its handler extracts, the opcode and mode bits among them; the others are
ignored (30_encoding.md R86). -/
def usedBits : Instr → Word
  | .addReg .. | .andReg .. => 0xFFE7#16
  | .not .. => 0xFFC0#16
  | .jmp .. => 0xF1C0#16
  | .jsrr .. => 0xF9C0#16
  | .rti | .res => 0xF000#16
  | .trap .. | .trapGetc | .trapOut | .trapPuts | .trapIn | .trapPutsp | .trapHalt => 0xF0FF#16
  | .br .. | .addImm .. | .andImm .. | .ld .. | .st .. | .ldi .. | .sti .. | .lea .. => 0xFFFF#16
  | .ldr .. | .str .. | .jsr .. => 0xFFFF#16

/-- The byte a string service meets as its `j`-th from cell `p`: low byte, then high byte, of successive Words, the address
wrapping (43_trap_system.md R186, 20_memory.md R51). -/
def packedByte (m : Memory) (p : Word) (j : Nat) : Byte :=
  if j % 2 = 0 then slice (m.read (p + BitVec.ofNat 16 (j / 2))) 7 0
  else slice (m.read (p + BitVec.ofNat 16 (j / 2))) 15 8

/-- The invariant of the machine: the memory has its canonical form; COND is one-hot (10_state.md R28, R29); and a latched
FAULT names a reserved opcode, the opcode that the cell at its address holds, with PC one past that address and RUN still
1 (60_exceptions.md R211, R213). -/
def Inv (s : State) : Prop :=
  s.mem.wf ∧ CondLegal s.cond ∧
    ∀ f, s.fault = some f →
      (f.opc = opcodeBits .rti ∨ f.opc = opcodeBits .res) ∧ slice (s.memRead f.addr) 15 12 = f.opc ∧
        s.pc = f.addr + 1#16 ∧ s.run = true

end Sys2Proof.Machine
end

