-- ==== Sys2Proof/Certificates/Slice0/Obligations.lean ====
section
/-! DEFINITION. The statements about the machine, one definition each, after the numbered rules of spec/. The numbers of opcodes,
trap vectors and flag bits are named here (opcodeBits, serviceVector, flagBits); DecisionNumbersAreTheSpecs pins them. -/

open Sys2Proof Sys2Proof.Machine

/-! ### The flag rule and the instructions of 40_arith_logic.md -/

/-- The flag rule (10_state.md R30): Zero first, else Negative by bit 15, else Positive. -/
def Obligations.FlagRuleZeroNegativePositive : Prop :=
  ∀ (s : State) (v : Word),
    (v = 0x0000#16 → (s.setcc v).cond = flagBits .zero) ∧
    (v ≠ 0x0000#16 → v.getLsbD 15 = true → (s.setcc v).cond = flagBits .negative) ∧
    (v ≠ 0x0000#16 → v.getLsbD 15 = false → (s.setcc v).cond = flagBits .positive)

/-- ADD, register form (40_arith_logic.md R111): its encoding, the wrapped sum, COND, and nothing else. -/
def Obligations.AddRegisterForm : Prop :=
  (∀ w : Word, slice w 15 12 = opcodeBits .add → flagBit w 5 5 = false →
    decode w = .addReg (regAt w 11 9) (regAt w 8 6) (regAt w 2 0)) ∧
  ∀ (dr sr1 sr2 : Reg) (s : State), ∃ t v, exec (.addReg dr sr1 sr2) s = .next t ∧
    v.toNat = ((s.reg sr1).toNat + (s.reg sr2).toNat) % 65536 ∧ ProducesValue s t dr v

/-- ADD, immediate form (40_arith_logic.md section 2). Zero-extension of imm5 is the spec's decision D4 (log 4). -/
def Obligations.AddImmediateForm : Prop :=
  (∀ w : Word, slice w 15 12 = opcodeBits .add → flagBit w 5 5 = true →
    decode w = .addImm (regAt w 11 9) (regAt w 8 6) (slice w 4 0)) ∧
  ∀ (dr sr1 : Reg) (imm : BitVec 5) (s : State), ∃ t v, exec (.addImm dr sr1 imm) s = .next t ∧
    v.toNat = ((s.reg sr1).toNat + imm.toNat) % 65536 ∧ ProducesValue s t dr v

/-- AND, register form (40_arith_logic.md R113): bitwise on all sixteen bits. -/
def Obligations.AndRegisterForm : Prop :=
  (∀ w : Word, slice w 15 12 = opcodeBits .and → flagBit w 5 5 = false →
    decode w = .andReg (regAt w 11 9) (regAt w 8 6) (regAt w 2 0)) ∧
  ∀ (dr sr1 sr2 : Reg) (s : State), ∃ t v, exec (.andReg dr sr1 sr2) s = .next t ∧
    (∀ i, v.getLsbD i = ((s.reg sr1).getLsbD i && (s.reg sr2).getLsbD i)) ∧ ProducesValue s t dr v

/-- AND, immediate form (40_arith_logic.md section 3): the low five bits are masked, the others cleared, so the result is
at most 31 and COND is never Negative. Zero-extension of imm5 is the spec's decision D4 (log 4). -/
def Obligations.AndImmediateForm : Prop :=
  (∀ w : Word, slice w 15 12 = opcodeBits .and → flagBit w 5 5 = true →
    decode w = .andImm (regAt w 11 9) (regAt w 8 6) (slice w 4 0)) ∧
  ∀ (dr sr1 : Reg) (imm : BitVec 5) (s : State), ∃ t v, exec (.andImm dr sr1 imm) s = .next t ∧
    (∀ i, v.getLsbD i = ((s.reg sr1).getLsbD i && imm.getLsbD i)) ∧ v.toNat ≤ 31 ∧
    t.cond ≠ flagBits .negative ∧ ProducesValue s t dr v

/-- NOT (40_arith_logic.md R115): the value is 0xFFFF minus the source. -/
def Obligations.NotComplementsSource : Prop :=
  (∀ w : Word, slice w 15 12 = opcodeBits .not → decode w = .not (regAt w 11 9) (regAt w 8 6)) ∧
  ∀ (dr sr : Reg) (s : State), ∃ t v, exec (.not dr sr) s = .next t ∧
    v.toNat = 65535 - (s.reg sr).toNat ∧ ProducesValue s t dr v

/-- "toggling the mode bit with equal effective operand values yields identical results" (40_arith_logic.md section 1,
95_test_vectors.md S3). -/
def Obligations.ModeBitWithEqualOperandsAgrees : Prop :=
  ∀ (dr sr1 sr2 : Reg) (imm : BitVec 5) (s : State), (s.reg sr2).toNat = imm.toNat →
    exec (.addReg dr sr1 sr2) s = exec (.addImm dr sr1 imm) s ∧
    exec (.andReg dr sr1 sr2) s = exec (.andImm dr sr1 imm) s

/-! ### Control transfer (41_control.md) -/

/-- BR (41_control.md section 2): taken exactly when COND AND the mask is not 000, and PC is all it writes. The forward-only
offset is the spec's decision D4 (log 4). -/
def Obligations.BranchTakenAndNotTaken : Prop :=
  ∀ (mask : BitVec 3) (off : BitVec 9) (s : State), ∃ t, exec (.br mask off) s = .next t ∧
    (s.cond &&& mask ≠ 0b000#3 → t.pc.toNat = (s.pc.toNat + 1 + off.toNat) % 65536) ∧
    (s.cond &&& mask = 0b000#3 → t.pc = s.pc + 1#16) ∧ OnlyJumps s t t.pc

/-- BR's corner cases (41_control.md section 2): mask 111 always branches in a state whose COND is legal, mask 000 never, and
a mask of one flag exactly when COND is that flag. Which bit is which flag is the spec's decision D3 (log 3). -/
def Obligations.BranchMaskSelectsFlag : Prop :=
  ∀ (off : BitVec 9) (s : State), CondLegal s.cond →
    exec (.br 0b111#3 off) s = .next (s.setPc (pcRelative s off)) ∧
    exec (.br 0b000#3 off) s = .next (s.setPc (s.pc + 1#16)) ∧
    ∀ f : CondFlag, exec (.br (flagBits f) off) s =
      .next (s.setPc (if s.cond = flagBits f then pcRelative s off else s.pc + 1#16))

/-- JMP (41_control.md R132): PC is the base register, any of the eight, and nothing else changes. -/
def Obligations.JumpGoesToBaseRegister : Prop :=
  (∀ w : Word, slice w 15 12 = opcodeBits .jmp → decode w = .jmp (regAt w 8 6)) ∧
  ∀ (base : Reg) (s : State), ∃ t, exec (.jmp base) s = .next t ∧ OnlyJumps s t (s.reg base)

/-- JSR (41_control.md section 4): a forward jump that writes no register. Zero-extension and the missing link are the
spec's decisions D4 and D5 (logs 4, 13). -/
def Obligations.JsrJumpsForwardWithoutLink : Prop :=
  (∀ w : Word, slice w 15 12 = opcodeBits .jsr → flagBit w 11 11 = true → decode w = .jsr (slice w 10 0)) ∧
  ∀ (off : BitVec 11) (s : State), ∃ t, exec (.jsr off) s = .next t ∧
    t.pc.toNat = (s.pc.toNat + 1 + off.toNat) % 65536 ∧ OnlyJumps s t t.pc

/-- JSRR (41_control.md R135): PC is the base register, no register is written, "so JSRR behaves exactly as JMP on the same
register". -/
def Obligations.JsrrBehavesAsJmp : Prop :=
  (∀ w : Word, slice w 15 12 = opcodeBits .jsr → flagBit w 11 11 = false → decode w = .jsrr (regAt w 8 6)) ∧
  ∀ (base : Reg) (s : State), exec (.jsrr base) s = exec (.jmp base) s ∧
    ∃ t, exec (.jsrr base) s = .next t ∧ OnlyJumps s t (s.reg base)

/-! ### Loads, stores and LEA (42_load_store.md) -/

/-- LD (42_load_store.md section 2): the Word of the PC-relative cell. The forward-only offset is the spec's decision D4
(log 4), here and below. -/
def Obligations.LoadPcRelative : Prop :=
  ∀ (dr : Reg) (off : BitVec 9) (s : State), ∃ t ea, exec (.ld dr off) s = .next t ∧
    ea.toNat = (s.pc.toNat + 1 + off.toNat) % 65536 ∧ ProducesValue s t dr (s.memRead ea)

/-- LDI (42_load_store.md section 2): the pointer's target, by two reads. -/
def Obligations.LoadIndirect : Prop :=
  ∀ (dr : Reg) (off : BitVec 9) (s : State), ∃ t ea, exec (.ldi dr off) s = .next t ∧
    ea.toNat = (s.pc.toNat + 1 + off.toNat) % 65536 ∧ ProducesValue s t dr (s.memRead (s.memRead ea))

/-- LDR (42_load_store.md section 2): the base's value before the load is used, also when it is the destination. -/
def Obligations.LoadBaseOffset : Prop :=
  ∀ (dr base : Reg) (off : BitVec 6) (s : State), ∃ t ea, exec (.ldr dr base off) s = .next t ∧
    ea.toNat = ((s.reg base).toNat + off.toNat) % 65536 ∧ ProducesValue s t dr (s.memRead ea)

/-- LEA (42_load_store.md section 3): the address itself, with the flags of the address. -/
def Obligations.LoadEffectiveAddress : Prop :=
  ∀ (dr : Reg) (off : BitVec 9) (s : State), ∃ t ea, exec (.lea dr off) s = .next t ∧
    ea.toNat = (s.pc.toNat + 1 + off.toNat) % 65536 ∧ ProducesValue s t dr ea

/-- ST (42_load_store.md section 4): the cell at the PC-relative address takes the register, every other cell and everything
else is as before. -/
def Obligations.StorePcRelative : Prop :=
  ∀ (sr : Reg) (off : BitVec 9) (s : State),
    (pcRelative s off).toNat = (s.pc.toNat + 1 + off.toNat) % 65536 ∧
    ∃ t, exec (.st sr off) s = .next t ∧ StoresWord s t (pcRelative s off) (s.reg sr)

/-- STI (42_load_store.md section 4): the cell that the pointer cell names takes the register. -/
def Obligations.StoreIndirect : Prop :=
  ∀ (sr : Reg) (off : BitVec 9) (s : State),
    indirect s off = s.memRead (pcRelative s off) ∧
    ∃ t, exec (.sti sr off) s = .next t ∧ StoresWord s t (indirect s off) (s.reg sr)

/-- STR (42_load_store.md section 4): the cell at base plus offset takes the register, also when it is the base itself. -/
def Obligations.StoreBaseOffset : Prop :=
  ∀ (sr base : Reg) (off : BitVec 6) (s : State),
    (baseOffset s base off).toNat = ((s.reg base).toNat + off.toNat) % 65536 ∧
    ∃ t, exec (.str sr base off) s = .next t ∧ StoresWord s t (baseOffset s base off) (s.reg sr)

/-- A store is seen by a load of the same cell in the very next instruction (20_memory.md section 7,
70_reset_and_hazards.md section 3). -/
def Obligations.StoreIsSeenByTheNextLoad : Prop :=
  ∀ (sr dr base : Reg) (off : BitVec 6) (s : State), ∃ t u, exec (.str sr base off) s = .next t ∧
    exec (.ldr dr base off) t = .next u ∧ u.reg dr = s.reg sr

/-- A store is seen by the very next fetch, with no fence (20_memory.md section 7): ST with offset 0 replaces the next
instruction. -/
def Obligations.StoreIsSeenByTheNextFetch : Prop :=
  ∀ (sr : Reg) (s : State), Running s → ∃ t, exec (.st sr 0#9) s = .next t ∧ t.fetchWord = s.reg sr ∧
    step t = exec (decode (s.reg sr)) t

/-! ### TRAP, its services and the reserved opcodes (43_trap_system.md) -/

/-- The generic TRAP row dispatches by its vector (43_trap_system.md section 1): the six services, each as its own row. The
vector numbers are the spec's decision D2 (log 2). -/
def Obligations.TrapDispatchesByVector : Prop :=
  (∀ w : Word, slice w 15 12 = opcodeBits .trap → decode w = decodeTrap (slice w 7 0)) ∧
  ∀ (s : State),
    exec (.trap (serviceVector .getc)) s = exec .trapGetc s ∧ exec (.trap (serviceVector .out)) s = exec .trapOut s ∧
    exec (.trap (serviceVector .puts)) s = exec .trapPuts s ∧ exec (.trap (serviceVector .inp)) s = exec .trapIn s ∧
    exec (.trap (serviceVector .putsp)) s = exec .trapPutsp s ∧
    exec (.trap (serviceVector .halt)) s = exec .trapHalt s

/-- A vector outside the six is a no-op (43_trap_system.md section 2, the spec's decision D7; log 16). -/
def Obligations.UnknownTrapVectorIsNoOp : Prop :=
  ∀ (v : BitVec 8) (s : State), v.toNat < 0x20 ∨ 0x25 < v.toNat →
    WellFormed (.trap v) = true ∧ exec (.trap v) s = .next (s.setPc (s.pc + 1#16))

/-- GETC with a character waiting (43_trap_system.md section 2): it leaves the stream and stands zero-extended in R0, COND is Z
or P, nothing else changes. The 8-bit character is the spec's decision D15 (log 9). -/
def Obligations.GetcReadsOneCharacter : Prop :=
  ∀ (c : Byte) (rest : List Byte) (s : State), s.consoleIn = c :: rest →
    ∃ t, exec .trapGetc s = .next t ∧ (t.reg 0).toNat = c.toNat ∧ CondMatches t.cond (t.reg 0) ∧
      t.cond ≠ flagBits .negative ∧ t.consoleIn = rest ∧ t.consoleOut = s.consoleOut ∧ t.pc = s.pc + 1#16 ∧
      OtherRegsSame s t 0 ∧ MemSame s t ∧ ControlSame s t

/-- GETC with no character holds: there is no step until the host supplies one, and then the whole instruction is one step
(00_scope.md sections 5, 6; 43_trap_system.md section 2). That the missing step is answered as the fault awaitingInput is the
model's choice (log 9). -/
def Obligations.GetcHoldsOnEmptyInput : Prop :=
  ∀ (s : State), Running s → decode s.fetchWord = .trapGetc → s.consoleIn = [] →
    step s = .fault .awaitingInput ∧ ∀ (c : Byte) (cs : List Byte), ∃ t, step (s.supplyInput (c :: cs)) = .next t ∧
      t.pc = s.pc + 1#16 ∧ (t.reg 0).toNat = c.toNat ∧ t.consoleIn = cs

/-- OUT (43_trap_system.md R183): the low byte of R0 is appended to the console output, and nothing else changes. -/
def Obligations.OutWritesLowByte : Prop :=
  (∀ w : Word, slice w 15 12 = opcodeBits .trap → slice w 7 0 = serviceVector .out → decode w = .trapOut) ∧
  ∀ (s : State), ∃ t b, exec .trapOut s = .next t ∧ b.toNat = (s.reg 0).toNat % 256 ∧
    OnlyOutputs s t [b] (s.pc + 1#16)

/-- PUTS on a string that ends (43_trap_system.md section 2): if the first zero Word is the `n`-th from R0's address, the low
bytes of the `n` Words before it are output, in order, and nothing else changes. The low byte of a larger Word is the
spec's decision D16 (log 12). -/
def Obligations.PutsOutputsUpToZeroWord : Prop :=
  ∀ (n : Nat) (s : State), n < 65536 →
    (∀ k, k < n → s.memRead (s.reg 0 + BitVec.ofNat 16 k) ≠ 0x0000#16) →
    s.memRead (s.reg 0 + BitVec.ofNat 16 n) = 0x0000#16 →
    ∃ t, exec .trapPuts s = .next t ∧
      OnlyOutputs s t ((List.range n).map fun k => slice (s.memRead (s.reg 0 + BitVec.ofNat 16 k)) 7 0) (s.pc + 1#16)

/-- PUTS on a memory with no zero Word never ends (70_reset_and_hazards.md section 4): for every number of steps the core is
still running at the same instruction, and its output has grown by 65536 values a step. That a step is one lap of the
memory is the model's choice (log 12). -/
def Obligations.UnterminatedPutsRunsForEver : Prop :=
  ∀ (s : State), Running s → decode s.fetchWord = .trapPuts → (∀ a, s.memRead a ≠ 0x0000#16) →
    ∀ k, ∃ t, Host.Core.run Sys2Proof.core k s = .next t ∧
      (∃ bs, bs.length = 65536 * k ∧ OnlyOutputs s t bs s.pc)

/-- PUTSP on a string that ends (43_trap_system.md section 2): if the first zero byte, low before high in successive Words, is
the `n`-th, the `n` bytes before it are output, in order, and nothing else changes (the spec's decision D16; log 12). -/
def Obligations.PutspOutputsUpToZeroByte : Prop :=
  ∀ (n : Nat) (s : State), n < 131072 →
    (∀ k, k < n → packedByte s.mem (s.reg 0) k ≠ 0x00#8) →
    packedByte s.mem (s.reg 0) n = 0x00#8 →
    ∃ t, exec .trapPutsp s = .next t ∧
      OnlyOutputs s t ((List.range n).map (packedByte s.mem (s.reg 0))) (s.pc + 1#16)

/-- PUTSP on a memory with no zero byte never ends (70_reset_and_hazards.md section 4): the lap is the model's choice
(log 12). -/
def Obligations.UnterminatedPutspRunsForEver : Prop :=
  ∀ (s : State), Running s → decode s.fetchWord = .trapPutsp →
    (∀ a, slice (s.memRead a) 7 0 ≠ 0x00#8 ∧ slice (s.memRead a) 15 8 ≠ 0x00#8) →
    ∀ k, ∃ t, Host.Core.run Sys2Proof.core k s = .next t ∧
      (∃ bs, bs.length = 131072 * k ∧ OnlyOutputs s t bs s.pc)

/-- IN completes or holds as the parameter of the spec's decision D14 says, which also gives what it writes (43_trap_system.md
section 2): whatever that free value Config.trapInEffect is (log 11), a completion is a next state that changes nothing but
R0, COND and the console streams, COND to a legal value, the output by appending, and a hold is no step. COND's legal value
is the model's choice (log 11), and so is the fault awaitingInput for a hold (log 9). -/
def Obligations.InChangesOnlyR0CondAndStreams : Prop :=
  ∀ (s : State),
    exec .trapIn s = applyTrapIn s (Config.trapInEffect s.regs s.pc s.cond s.consoleIn) ∧
    applyTrapIn s none = .fault .awaitingInput ∧
    ∀ r : Config.TrapInResult, ∃ t, applyTrapIn s (some r) = .next t ∧
      (Config.trapInEffect s.regs s.pc s.cond s.consoleIn = some r → exec .trapIn s = .next t) ∧
      t.reg 0 = r.r0 ∧ t.cond = flagBits r.flag ∧ t.consoleIn = r.input ∧ t.consoleOut = s.consoleOut ++ r.output ∧
      t.pc = s.pc + 1#16 ∧ OtherRegsSame s t 0 ∧ MemSame s t ∧ ControlSame s t

/-- HALT (43_trap_system.md section 2): RUN is cleared, PC is one past the instruction, nothing else changes, and the core has
no further step. That it prints nothing is the spec's decision D20. -/
def Obligations.HaltClearsRunAndStops : Prop :=
  ∀ (s : State), ∃ t, exec .trapHalt s = .next t ∧ t = { s with pc := s.pc + 1#16, run := false } ∧
    ∀ u, step t ≠ .next u

/-- RTI (43_trap_system.md R190): a decode failure, whatever ir[11:0] holds: PC is incremented, FAULT latches the opcode and
the instruction's address, nothing else changes, and there is no further step. -/
def Obligations.RtiRaisesDecodeFailure : Prop :=
  (∀ w : Word, slice w 15 12 = opcodeBits .rti → decode w = .rti) ∧
  ∀ (s : State), ∃ t, exec .rti s = .next t ∧
    t = { s with pc := s.pc + 1#16, fault := some ⟨opcodeBits .rti, s.pc⟩ } ∧ ∀ u, step t ≠ .next u

/-- RES (43_trap_system.md R191): as RTI, with the other opcode recorded. -/
def Obligations.ResRaisesDecodeFailure : Prop :=
  (∀ w : Word, slice w 15 12 = opcodeBits .res → decode w = .res) ∧
  ∀ (s : State), ∃ t, exec .res s = .next t ∧
    t = { s with pc := s.pc + 1#16, fault := some ⟨opcodeBits .res, s.pc⟩ } ∧ ∀ u, step t ≠ .next u

/-! ### The sequencer, reset and the loader -/

/-- A step runs the decoded instruction (10_state.md sections 3, 9): nothing happens around `exec`, which moves PC itself. -/
def Obligations.StepRunsTheDecodedInstruction : Prop :=
  ∀ (s : State) (i : Instr), Running s → decode (s.memRead s.pc) = i → WellFormed i = true ∧ step s = exec i s

/-- The core has a step exactly when it is Running and the instruction at PC does not hold on console input, "the one case in
which a Running core takes no step" (10_state.md sections 3, 9; 00_scope.md section 6; 60_exceptions.md section 1); nothing is
refused, and no instruction faults but by a hold; a Halted and a Faulted core have no step, Faulted dominating. That TRAP
0x23 has a step, that a PUTS or PUTSP with no terminator in the memory answers one, and that a missing step is a fault of
its name, is the model's choice (logs 9, 11, 12, 18). -/
def Obligations.StepExistsExactlyWhenRunningAndNotHeld : Prop :=
  (∀ (i : Instr) (s : State) (f : Fault), exec i s = .fault f → f = .awaitingInput) ∧
  ∀ (s : State), ((∃ t, step s = .next t) ↔ Running s ∧ ¬ Holding s) ∧ (∀ r, step s ≠ .refused r) ∧
    (Running s → Holding s → step s = .fault .awaitingInput) ∧
    (∀ f, s.fault = some f → step s = .fault (.decodeFailed f)) ∧
    (s.fault = none → s.run = false → step s = .fault .halted)

/-- Exactly the reserved opcodes raise the one exception (60_exceptions.md section 1): a step from a Running core latches FAULT
when the opcode is RTI's or RES's and leaves it none otherwise, and no instruction is without a next state but a character
input service that holds, which is no exception (10_state.md section 3). That IN has a next state where its parameter does
not hold, and that a PUTS or PUTSP with no terminator in the memory answers one, is the model's choice (logs 11, 12). -/
def Obligations.OnlyReservedOpcodesRaise : Prop :=
  (∀ (i : Instr) (s : State), WellFormed i = true → (∃ t, exec i s = .next t) ∨ (i = .trapGetc ∧ s.consoleIn = []) ∨
    (i = .trapIn ∧ Config.trapInEffect s.regs s.pc s.cond s.consoleIn = none)) ∧
  ∀ (s t : State), step s = .next t →
    (t.fault ≠ none ↔
      slice s.fetchWord 15 12 = opcodeBits .rti ∨ slice s.fetchWord 15 12 = opcodeBits .res)

/-- A zero Word is a BR that is never taken, so a Running core walks over it changing PC alone (20_memory.md section 7). -/
def Obligations.ZeroWordOnlyAdvancesPc : Prop :=
  ∀ (s : State), Running s → s.memRead s.pc = 0x0000#16 → step s = .next { s with pc := s.pc + 1#16 }

/-- The state after reset (70_reset_and_hazards.md section 1). PC and RUN are the source's; the registers, COND and FAULT are
the spec's decisions D9, D10, D12 (logs 5, 6, 8); the empty memory and input are the model's choice (logs 7, 10). -/
def Obligations.ResetStateValues : Prop :=
  State.reset.pc = 0x3000#16 ∧ State.reset.run = true ∧ (∀ r, State.reset.reg r = 0x0000#16) ∧
    State.reset.cond = 0b010#3 ∧ State.reset.fault = none ∧ (∀ a, State.reset.memRead a = 0x0000#16) ∧
    State.reset.consoleIn = [] ∧ State.reset.consoleOut = []

/-- The reset event from any state (70_reset_and_hazards.md section 1): the core is Running at 0x3000 with the reset values, and
no state survives but memory. -/
def Obligations.ResetEventKeepsOnlyMemory : Prop :=
  ∀ (s : State) (input : List Byte), Running (s.resetEvent input) ∧ MemSame s (s.resetEvent input) ∧
    s.resetEvent input = State.launch s.mem input ∧ (s.resetEvent input).pc = 0x3000#16 ∧
    (∀ r, (s.resetEvent input).reg r = 0x0000#16) ∧ (s.resetEvent input).cond = 0b010#3 ∧
    (s.resetEvent input).consoleIn = input ∧ (s.resetEvent input).consoleOut = []

/-- The loader (70_reset_and_hazards.md section 2): of an image with origin `o` and `n` Words that fit, Word `k` lies in cell
`o + k`, low byte first in the file, and every other cell is zero (the spec's decisions D11, D22; logs 7, 15). That the
memory it gives has the canonical form (`m.wf`) rests on the model's choice of that form (log 14). -/
def Obligations.LoaderPlacesImageWords : Prop :=
  ∀ (origin : Word) (words : List Word), origin.toNat + words.length ≤ 65536 →
    ∃ m, loadImage (slice origin 7 0 :: slice origin 15 8 ::
        words.flatMap fun w => [slice w 7 0, slice w 15 8]) = some m ∧ m.wf ∧
      (∀ k (h : k < words.length), m.read (origin + BitVec.ofNat 16 k) = words[k]) ∧
      ∀ a : Word, a.toNat < origin.toNat ∨ origin.toNat + words.length ≤ a.toNat → m.read a = 0x0000#16

/-! ### What every instruction leaves unchanged -/

/-- No instruction writes a general register but its destination: the register of ir[11:9] for the ALU, the loads and LEA, R0
for the character input services (10_state.md section 2; IN's R0 is the free value of log 11). -/
def Obligations.OnlyTheDestinationRegisterChanges : Prop :=
  ∀ (i : Instr) (s t : State), WellFormed i = true → exec i s = .next t →
    ∀ q, destOf i ≠ some q → t.reg q = s.reg q

/-- COND (10_state.md section 4): an instruction with no destination leaves it; one with a destination sets it from the value
written, but for IN, whose flag is free; and it stays legal (IN's legal flag is the model's choice, log 11). -/
def Obligations.FlagsFollowTheDestination : Prop :=
  ∀ (i : Instr) (s t : State), WellFormed i = true → exec i s = .next t →
    (destOf i = none → t.cond = s.cond) ∧
    (∀ dr, destOf i = some dr → i ≠ .trapIn → CondMatches t.cond (t.reg dr)) ∧
    (CondLegal s.cond → CondLegal t.cond)

/-- No instruction but ST, STI and STR changes a cell of memory, the trap services included (20_memory.md section 4,
43_trap_system.md section 2). -/
def Obligations.OnlyStoresChangeMemory : Prop :=
  ∀ (i : Instr) (s t : State), exec i s = .next t → isStore i = false → MemSame s t

/-- RUN (10_state.md section 5): it is 1 after reset, a step never sets it and clears it exactly by the halt service, and no
instruction reads it: with another RUN an instruction has the same outcome, the hold of an input service with it, and a next
state that differs in RUN at most. That IN's free effect does not depend on RUN is the model's choice (log 11). -/
def Obligations.RunIsClearedOnlyByHalt : Prop :=
  State.reset.run = true ∧
  (∀ (s t : State), step s = .next t → s.run = true ∧ (t.run = false ↔ decode s.fetchWord = .trapHalt)) ∧
  ∀ (i : Instr) (s : State) (b : Bool),
    (∀ t, exec i s = .next t → ∃ u, exec i { s with run := b } = .next u ∧ { u with run := t.run } = t) ∧
    ∀ f, exec i s = .fault f → exec i { s with run := b } = .fault f

/-- The console (43_trap_system.md sections 2, 4): characters are taken by the input services only, and output is only
appended, by the output services and IN only (IN: the free value of log 11). -/
def Obligations.ConsoleIsReachedOnlyByServices : Prop :=
  ∀ (i : Instr) (s t : State), WellFormed i = true → exec i s = .next t →
    (readsConsole i = false → t.consoleIn = s.consoleIn) ∧
    ∃ bs, t.consoleOut = s.consoleOut ++ bs ∧ (writesConsole i = false → bs = [])

/-- What was output before is invisible to the program (10_state.md section 8): changing the past output changes nothing of an
instruction's outcome but that past, and a hold stays a hold. That IN's free effect does not depend on it is the model's
choice (log 11). -/
def Obligations.PastOutputIsInvisible : Prop :=
  ∀ (i : Instr) (s : State),
    (∀ t, exec i s = .next t → ∃ bs, t.consoleOut = s.consoleOut ++ bs ∧
      ∀ o, exec i { s with consoleOut := o } = .next { t with consoleOut := o ++ bs }) ∧
    ∀ f, exec i s = .fault f → ∀ o, exec i { s with consoleOut := o } = .fault f

/-! ### Memory as data -/

/-- Two memories in canonical form that read alike in every cell are equal data (20_memory.md section 1; the form is the
model's choice, log 14). -/
def Obligations.CanonicalMemoryIsItsReads : Prop :=
  ∀ (m n : Memory), m.wf → n.wf → (∀ a, m.read a = n.read a) → m = n

/-! ### Encoding -/

/-- Decoding an encoded instruction gives it back, with every operand at every value (30_encoding.md sections 2, 5). -/
def Obligations.DecodeOfEncodeIsTheInstruction : Prop :=
  ∀ i : Instr, WellFormed i = true → decode (encode i) = i

/-- Encoding what a Word decodes to gives the Word back in every bit its handler extracts (30_encoding.md section 5, the
spec's decision D8; log 17). -/
def Obligations.EncodeOfDecodeKeepsUsedBits : Prop :=
  ∀ w : Word, WellFormed (decode w) = true ∧
    encode (decode w) &&& usedBits (decode w) = w &&& usedBits (decode w)

/-- Ignored bits (30_encoding.md section 5, the spec's decision D8; log 17): a Word that differs from another only in bits the
other's handler does not extract is the same instruction. -/
def Obligations.IgnoredBitsDoNotMatter : Prop :=
  ∀ w w' : Word, w &&& usedBits (decode w) = w' &&& usedBits (decode w) → decode w' = decode w

/-- The decoder agrees with spec/opcode_table.json on every Word (30_encoding.md section 7): the Word matches the decoded
instruction's row, and any other row it matches is the generic TRAP row. -/
def Obligations.DecodeSelectsTheTableRow : Prop :=
  ∀ w : Word, w &&& (tableRow (decode w)).mask = (tableRow (decode w)).pattern ∧
    ∀ i : Instr, w &&& (tableRow i).mask = (tableRow i).pattern →
      tableRow i = tableRow (decode w) ∨ tableRow i = ⟨0xF000#16, 0xF000#16⟩

/-- The codec (00_scope.md section 5, 95_test_vectors.md S1): the value of a slice is the shifted and masked Word, and the
slices of the four nibble-and-register fields rebuild it. -/
def Obligations.CodecValueAndReconstruction : Prop :=
  ∀ w : Word, (∀ hi lo, lo ≤ hi → hi ≤ 15 → (slice w hi lo).toNat = (w.toNat / 2 ^ lo) % 2 ^ (hi - lo + 1)) ∧
    w = place (slice w 15 12) 12 ||| place (slice w 11 9) 9 ||| place (slice w 8 6) 6 ||| place (slice w 5 0) 0

/-- The numbers the spec decided (30_encoding.md section 3, 43_trap_system.md section 1, 10_state.md section 4; its decisions
D1, D2, D3; logs 1, 2, 3), which the other statements name. -/
def Obligations.DecisionNumbersAreTheSpecs : Prop :=
  [Opcode.br, .add, .ld, .st, .jsr, .and, .ldr, .str, .rti, .not, .ldi, .sti, .jmp, .res, .lea, .trap].map
      (fun op => (opcodeBits op).toNat) = List.range 16 ∧
    (∀ b, opcodeBits (opcodeOfBits b) = b) ∧
    [TrapService.getc, .out, .puts, .inp, .putsp, .halt].map serviceVector =
      [0x20#8, 0x21#8, 0x22#8, 0x23#8, 0x24#8, 0x25#8] ∧
    flagBits .positive = 0b001#3 ∧ flagBits .zero = 0b010#3 ∧ flagBits .negative = 0b100#3

/-- Words of the spec's examples decode to the instructions they stand for (95_test_vectors.md Part 2; 0x1025 stands in its
Part 3, program P1, and in 40_arith_logic.md section 2). -/
def Obligations.ExampleWordsDecode : Prop :=
  decode 0x1401#16 = .addReg 2 0 1 ∧ decode 0x1025#16 = .addImm 0 0 5#5 ∧ decode 0x0403#16 = .br 0b010#3 3#9 ∧
    decode 0x4080#16 = .jsrr 2 ∧ decode 0x6644#16 = .ldr 3 1 4#6 ∧ decode 0xB401#16 = .sti 2 1#9 ∧
    decode 0xFF25#16 = .trapHalt ∧ decode 0xF026#16 = .trap 0x26#8 ∧ decode 0xDABC#16 = .res

/-! ### The invariant -/

/-- Reset, and every session launched on a memory in canonical form, meets the invariant: COND is legal (10_state.md section
4) and FAULT is none (70_reset_and_hazards.md section 1). The canonical form, the invariant's first clause and the premise
`m.wf`, is the model's choice (log 14), as is State.reset's empty memory (log 7). -/
def Obligations.ResetMeetsTheInvariant : Prop :=
  Inv State.reset ∧ ∀ (m : Memory) (input : List Byte), m.wf → Inv (State.launch m input)

/-- Every step keeps the invariant: the memory's canonical form, a one-hot COND (10_state.md section 4), and a FAULT record that
names the reserved opcode still standing in the cell before PC (60_exceptions.md section 1; the spec's decisions D12, D13).
The canonical form and IN's legal flag are the model's choice (logs 11, 14). -/
def Obligations.EveryStepKeepsTheInvariant : Prop :=
  ∀ s t : State, Inv s → step s = .next t → Inv t
end

