-- ==== Sys2Proof/Laws/State.lean ====
section
/-! SUPPORT. One lemma per field per state update, each true by rfl, so that no proof unfolds a record update; and what
reading a register gives after each. -/

namespace Sys2Proof.Machine

@[simp] theorem State.nextPc_eq (s : State) : s.nextPc = s.pc + 1#16 := rfl

/-! ### setReg -/

@[simp] theorem State.setReg_regs (s : State) (r : Reg) (v : Word) : (s.setReg r v).regs = s.regs.set r v := rfl
@[simp] theorem State.setReg_pc (s : State) (r : Reg) (v : Word) : (s.setReg r v).pc = s.pc := rfl
@[simp] theorem State.setReg_cond (s : State) (r : Reg) (v : Word) : (s.setReg r v).cond = s.cond := rfl
@[simp] theorem State.setReg_run (s : State) (r : Reg) (v : Word) : (s.setReg r v).run = s.run := rfl
@[simp] theorem State.setReg_fault (s : State) (r : Reg) (v : Word) : (s.setReg r v).fault = s.fault := rfl
@[simp] theorem State.setReg_mem (s : State) (r : Reg) (v : Word) : (s.setReg r v).mem = s.mem := rfl
@[simp] theorem State.setReg_consoleIn (s : State) (r : Reg) (v : Word) : (s.setReg r v).consoleIn = s.consoleIn := rfl
@[simp] theorem State.setReg_consoleOut (s : State) (r : Reg) (v : Word) : (s.setReg r v).consoleOut = s.consoleOut := rfl

/-! ### setcc -/

@[simp] theorem State.setcc_regs (s : State) (v : Word) : (s.setcc v).regs = s.regs := rfl
@[simp] theorem State.setcc_pc (s : State) (v : Word) : (s.setcc v).pc = s.pc := rfl
@[simp] theorem State.setcc_cond (s : State) (v : Word) : (s.setcc v).cond = condOf v := rfl
@[simp] theorem State.setcc_run (s : State) (v : Word) : (s.setcc v).run = s.run := rfl
@[simp] theorem State.setcc_fault (s : State) (v : Word) : (s.setcc v).fault = s.fault := rfl
@[simp] theorem State.setcc_mem (s : State) (v : Word) : (s.setcc v).mem = s.mem := rfl
@[simp] theorem State.setcc_consoleIn (s : State) (v : Word) : (s.setcc v).consoleIn = s.consoleIn := rfl
@[simp] theorem State.setcc_consoleOut (s : State) (v : Word) : (s.setcc v).consoleOut = s.consoleOut := rfl

/-! ### setPc -/

@[simp] theorem State.setPc_regs (s : State) (t : Word) : (s.setPc t).regs = s.regs := rfl
@[simp] theorem State.setPc_pc (s : State) (t : Word) : (s.setPc t).pc = t := rfl
@[simp] theorem State.setPc_cond (s : State) (t : Word) : (s.setPc t).cond = s.cond := rfl
@[simp] theorem State.setPc_run (s : State) (t : Word) : (s.setPc t).run = s.run := rfl
@[simp] theorem State.setPc_fault (s : State) (t : Word) : (s.setPc t).fault = s.fault := rfl
@[simp] theorem State.setPc_mem (s : State) (t : Word) : (s.setPc t).mem = s.mem := rfl
@[simp] theorem State.setPc_consoleIn (s : State) (t : Word) : (s.setPc t).consoleIn = s.consoleIn := rfl
@[simp] theorem State.setPc_consoleOut (s : State) (t : Word) : (s.setPc t).consoleOut = s.consoleOut := rfl

/-! ### advance -/

@[simp] theorem State.advance_regs (s : State) : (s.advance).regs = s.regs := rfl
@[simp] theorem State.advance_pc (s : State) : (s.advance).pc = s.pc + 1#16 := rfl
@[simp] theorem State.advance_cond (s : State) : (s.advance).cond = s.cond := rfl
@[simp] theorem State.advance_run (s : State) : (s.advance).run = s.run := rfl
@[simp] theorem State.advance_fault (s : State) : (s.advance).fault = s.fault := rfl
@[simp] theorem State.advance_mem (s : State) : (s.advance).mem = s.mem := rfl
@[simp] theorem State.advance_consoleIn (s : State) : (s.advance).consoleIn = s.consoleIn := rfl
@[simp] theorem State.advance_consoleOut (s : State) : (s.advance).consoleOut = s.consoleOut := rfl

/-! ### writeResult -/

@[simp] theorem State.writeResult_regs (s : State) (dr : Reg) (v : Word) : (s.writeResult dr v).regs = s.regs.set dr v := rfl
@[simp] theorem State.writeResult_pc (s : State) (dr : Reg) (v : Word) : (s.writeResult dr v).pc = s.pc + 1#16 := rfl
@[simp] theorem State.writeResult_cond (s : State) (dr : Reg) (v : Word) : (s.writeResult dr v).cond = condOf v := rfl
@[simp] theorem State.writeResult_run (s : State) (dr : Reg) (v : Word) : (s.writeResult dr v).run = s.run := rfl
@[simp] theorem State.writeResult_fault (s : State) (dr : Reg) (v : Word) : (s.writeResult dr v).fault = s.fault := rfl
@[simp] theorem State.writeResult_mem (s : State) (dr : Reg) (v : Word) : (s.writeResult dr v).mem = s.mem := rfl
@[simp] theorem State.writeResult_consoleIn (s : State) (dr : Reg) (v : Word) : (s.writeResult dr v).consoleIn = s.consoleIn := rfl
@[simp] theorem State.writeResult_consoleOut (s : State) (dr : Reg) (v : Word) : (s.writeResult dr v).consoleOut = s.consoleOut := rfl

/-! ### memWrite -/

@[simp] theorem State.memWrite_regs (s : State) (a v : Word) : (s.memWrite a v).regs = s.regs := rfl
@[simp] theorem State.memWrite_pc (s : State) (a v : Word) : (s.memWrite a v).pc = s.pc := rfl
@[simp] theorem State.memWrite_cond (s : State) (a v : Word) : (s.memWrite a v).cond = s.cond := rfl
@[simp] theorem State.memWrite_run (s : State) (a v : Word) : (s.memWrite a v).run = s.run := rfl
@[simp] theorem State.memWrite_fault (s : State) (a v : Word) : (s.memWrite a v).fault = s.fault := rfl
@[simp] theorem State.memWrite_mem (s : State) (a v : Word) : (s.memWrite a v).mem = s.mem.write a v := rfl
@[simp] theorem State.memWrite_consoleIn (s : State) (a v : Word) : (s.memWrite a v).consoleIn = s.consoleIn := rfl
@[simp] theorem State.memWrite_consoleOut (s : State) (a v : Word) : (s.memWrite a v).consoleOut = s.consoleOut := rfl

/-! ### storeWord -/

@[simp] theorem State.storeWord_regs (s : State) (ea v : Word) : (s.storeWord ea v).regs = s.regs := rfl
@[simp] theorem State.storeWord_pc (s : State) (ea v : Word) : (s.storeWord ea v).pc = s.pc + 1#16 := rfl
@[simp] theorem State.storeWord_cond (s : State) (ea v : Word) : (s.storeWord ea v).cond = s.cond := rfl
@[simp] theorem State.storeWord_run (s : State) (ea v : Word) : (s.storeWord ea v).run = s.run := rfl
@[simp] theorem State.storeWord_fault (s : State) (ea v : Word) : (s.storeWord ea v).fault = s.fault := rfl
@[simp] theorem State.storeWord_mem (s : State) (ea v : Word) : (s.storeWord ea v).mem = s.mem.write ea v := rfl
@[simp] theorem State.storeWord_consoleIn (s : State) (ea v : Word) : (s.storeWord ea v).consoleIn = s.consoleIn := rfl
@[simp] theorem State.storeWord_consoleOut (s : State) (ea v : Word) : (s.storeWord ea v).consoleOut = s.consoleOut := rfl

/-! ### consolePut -/

@[simp] theorem State.consolePut_regs (s : State) (bs : List Byte) : (s.consolePut bs).regs = s.regs := rfl
@[simp] theorem State.consolePut_pc (s : State) (bs : List Byte) : (s.consolePut bs).pc = s.pc := rfl
@[simp] theorem State.consolePut_cond (s : State) (bs : List Byte) : (s.consolePut bs).cond = s.cond := rfl
@[simp] theorem State.consolePut_run (s : State) (bs : List Byte) : (s.consolePut bs).run = s.run := rfl
@[simp] theorem State.consolePut_fault (s : State) (bs : List Byte) : (s.consolePut bs).fault = s.fault := rfl
@[simp] theorem State.consolePut_mem (s : State) (bs : List Byte) : (s.consolePut bs).mem = s.mem := rfl
@[simp] theorem State.consolePut_consoleIn (s : State) (bs : List Byte) : (s.consolePut bs).consoleIn = s.consoleIn := rfl
@[simp] theorem State.consolePut_consoleOut (s : State) (bs : List Byte) : (s.consolePut bs).consoleOut = s.consoleOut ++ bs := rfl

/-! ### raiseDecodeFailure -/

@[simp] theorem State.raiseDecodeFailure_regs (s : State) (op : Opcode) : (s.raiseDecodeFailure op).regs = s.regs := rfl
@[simp] theorem State.raiseDecodeFailure_pc (s : State) (op : Opcode) : (s.raiseDecodeFailure op).pc = s.pc + 1#16 := rfl
@[simp] theorem State.raiseDecodeFailure_cond (s : State) (op : Opcode) : (s.raiseDecodeFailure op).cond = s.cond := rfl
@[simp] theorem State.raiseDecodeFailure_run (s : State) (op : Opcode) : (s.raiseDecodeFailure op).run = s.run := rfl
@[simp] theorem State.raiseDecodeFailure_fault (s : State) (op : Opcode) : (s.raiseDecodeFailure op).fault = some ⟨opcodeBits op, s.pc⟩ := rfl
@[simp] theorem State.raiseDecodeFailure_mem (s : State) (op : Opcode) : (s.raiseDecodeFailure op).mem = s.mem := rfl
@[simp] theorem State.raiseDecodeFailure_consoleIn (s : State) (op : Opcode) : (s.raiseDecodeFailure op).consoleIn = s.consoleIn := rfl
@[simp] theorem State.raiseDecodeFailure_consoleOut (s : State) (op : Opcode) : (s.raiseDecodeFailure op).consoleOut = s.consoleOut := rfl

/-! ### resetEvent -/

@[simp] theorem State.resetEvent_regs (s : State) (input : List Byte) : (s.resetEvent input).regs = Vector.replicate 8 Config.regReset := rfl
@[simp] theorem State.resetEvent_pc (s : State) (input : List Byte) : (s.resetEvent input).pc = Config.pcReset := rfl
@[simp] theorem State.resetEvent_cond (s : State) (input : List Byte) : (s.resetEvent input).cond = flagBits .zero := rfl
@[simp] theorem State.resetEvent_run (s : State) (input : List Byte) : (s.resetEvent input).run = true := rfl
@[simp] theorem State.resetEvent_fault (s : State) (input : List Byte) : (s.resetEvent input).fault = none := rfl
@[simp] theorem State.resetEvent_mem (s : State) (input : List Byte) : (s.resetEvent input).mem = s.mem := rfl
@[simp] theorem State.resetEvent_consoleIn (s : State) (input : List Byte) : (s.resetEvent input).consoleIn = input := rfl
@[simp] theorem State.resetEvent_consoleOut (s : State) (input : List Byte) : (s.resetEvent input).consoleOut = [] := rfl

/-! ### supplyInput -/

@[simp] theorem State.supplyInput_regs (s : State) (chars : List Byte) : (s.supplyInput chars).regs = s.regs := rfl
@[simp] theorem State.supplyInput_pc (s : State) (chars : List Byte) : (s.supplyInput chars).pc = s.pc := rfl
@[simp] theorem State.supplyInput_cond (s : State) (chars : List Byte) : (s.supplyInput chars).cond = s.cond := rfl
@[simp] theorem State.supplyInput_run (s : State) (chars : List Byte) : (s.supplyInput chars).run = s.run := rfl
@[simp] theorem State.supplyInput_fault (s : State) (chars : List Byte) : (s.supplyInput chars).fault = s.fault := rfl
@[simp] theorem State.supplyInput_mem (s : State) (chars : List Byte) : (s.supplyInput chars).mem = s.mem := rfl
@[simp] theorem State.supplyInput_consoleIn (s : State) (chars : List Byte) : (s.supplyInput chars).consoleIn = s.consoleIn ++ chars := rfl
@[simp] theorem State.supplyInput_consoleOut (s : State) (chars : List Byte) : (s.supplyInput chars).consoleOut = s.consoleOut := rfl

/-! ### Reading a register, a cell, and the Word at PC -/

/-- A written register reads as the value written, every other as before (00_scope.md R10). -/
@[simp] theorem State.setReg_reg (s : State) (r q : Reg) (v : Word) :
    (s.setReg r v).reg q = if q = r then v else s.reg q := by
  have h : (s.regs.set r v)[q] = if r.val = q.val then v else s.regs[q] :=
    Vector.getElem_set (i := r.val) (j := q.val) r.isLt q.isLt
  rw [show (s.setReg r v).reg q = (s.regs.set r v)[q] from rfl, h]
  by_cases hq : q = r
  · simp [hq]
  · have hv : ¬ r.val = q.val := fun e => hq (Fin.ext e.symm)
    simp [hq, hv, State.reg]

/-- A result write changes the destination register only. -/
@[simp] theorem State.writeResult_reg (s : State) (r q : Reg) (v : Word) :
    (s.writeResult r v).reg q = if q = r then v else s.reg q := s.setReg_reg r q v

@[simp] theorem State.setcc_reg (s : State) (v : Word) (q : Reg) : (s.setcc v).reg q = s.reg q := rfl
@[simp] theorem State.setPc_reg (s : State) (t : Word) (q : Reg) : (s.setPc t).reg q = s.reg q := rfl
@[simp] theorem State.advance_reg (s : State) (q : Reg) : (s.advance).reg q = s.reg q := rfl
@[simp] theorem State.memWrite_reg (s : State) (a v : Word) (q : Reg) : (s.memWrite a v).reg q = s.reg q := rfl
@[simp] theorem State.storeWord_reg (s : State) (ea v : Word) (q : Reg) : (s.storeWord ea v).reg q = s.reg q := rfl
@[simp] theorem State.consolePut_reg (s : State) (bs : List Byte) (q : Reg) : (s.consolePut bs).reg q = s.reg q := rfl
@[simp] theorem State.raiseDecodeFailure_reg (s : State) (op : Opcode) (q : Reg) : (s.raiseDecodeFailure op).reg q = s.reg q := rfl
@[simp] theorem State.supplyInput_reg (s : State) (chars : List Byte) (q : Reg) : (s.supplyInput chars).reg q = s.reg q := rfl

@[simp] theorem State.setReg_memRead (s : State) (r : Reg) (v : Word) (a : Word) : (s.setReg r v).memRead a = s.memRead a := rfl
@[simp] theorem State.setcc_memRead (s : State) (v : Word) (a : Word) : (s.setcc v).memRead a = s.memRead a := rfl
@[simp] theorem State.setPc_memRead (s : State) (t : Word) (a : Word) : (s.setPc t).memRead a = s.memRead a := rfl
@[simp] theorem State.advance_memRead (s : State) (a : Word) : (s.advance).memRead a = s.memRead a := rfl
@[simp] theorem State.writeResult_memRead (s : State) (dr : Reg) (v : Word) (a : Word) : (s.writeResult dr v).memRead a = s.memRead a := rfl
@[simp] theorem State.consolePut_memRead (s : State) (bs : List Byte) (a : Word) : (s.consolePut bs).memRead a = s.memRead a := rfl
@[simp] theorem State.raiseDecodeFailure_memRead (s : State) (op : Opcode) (a : Word) : (s.raiseDecodeFailure op).memRead a = s.memRead a := rfl
@[simp] theorem State.resetEvent_memRead (s : State) (input : List Byte) (a : Word) : (s.resetEvent input).memRead a = s.memRead a := rfl
@[simp] theorem State.supplyInput_memRead (s : State) (chars : List Byte) (a : Word) : (s.supplyInput chars).memRead a = s.memRead a := rfl

/-- The Word at PC, as a read of memory. -/
theorem State.fetchWord_eq (s : State) : s.fetchWord = s.memRead s.pc := rfl

/-- Reset is the launch of a session with nothing filled and no input. -/
theorem State.reset_eq_launch : State.reset = State.launch [] [] := rfl

end Sys2Proof.Machine
end

