-- ==== Sys2Proof/Laws/Memory.lean ====
section
/-! SUPPORT. The memory: a Word written is the Word read and no other cell changes (spec 20_memory.md R50), and every memory
operation keeps the canonical form. -/

namespace Sys2Proof.Machine

/-! ### Bytes -/

theorem Memory.byteAt_insertCell_ne (m : Memory) (k j : Nat) (b : Byte) (h : j ≠ k) :
    (Memory.insertCell m k b).byteAt j = m.byteAt j := by
  induction m with
  | nil => simp [Memory.insertCell, Memory.byteAt, h.symm]
  | cons c m ih =>
    unfold Memory.insertCell
    split
    · simp [Memory.byteAt, h.symm]
    · simp only [Memory.byteAt, ih]

theorem Memory.byteAt_insertCell_same (m : Memory) (k : Nat) (b : Byte) (h : ∀ c ∈ m, c.1 ≠ k) :
    (Memory.insertCell m k b).byteAt k = b := by
  induction m with
  | nil => simp [Memory.insertCell, Memory.byteAt]
  | cons c m ih =>
    unfold Memory.insertCell
    split
    · simp [Memory.byteAt]
    · simp only [Memory.byteAt, h c (by simp), if_false]
      exact ih fun d hd => h d (by simp [hd])

theorem Memory.byteAt_filter_ne (m : Memory) (k j : Nat) (h : j ≠ k) :
    Memory.byteAt (m.filter fun c => c.1 != k) j = m.byteAt j := by
  induction m with
  | nil => rfl
  | cons c m ih =>
    by_cases hc : c.1 = k
    · have hj : c.1 ≠ j := by omega
      simp [hc, Memory.byteAt, ih, hc ▸ hj]
    · simp [hc, Memory.byteAt, ih]

theorem Memory.byteAt_of_unlisted (m : Memory) (k : Nat) (h : ∀ c ∈ m, c.1 ≠ k) :
    m.byteAt k = Config.unfilledByte := by
  induction m with
  | nil => rfl
  | cons c m ih =>
    simp only [Memory.byteAt, h c (by simp), if_false]
    exact ih fun d hd => h d (by simp [hd])

theorem Memory.filter_unlisted (m : Memory) (k : Nat) : ∀ c ∈ m.filter (fun c => c.1 != k), c.1 ≠ k := by
  intro c hc
  simpa using (List.mem_filter.1 hc).2

/-- What a byte reads as after a byte is set. -/
@[simp] theorem Memory.byteAt_setByte (m : Memory) (k j : Nat) (b : Byte) :
    (m.setByte k b).byteAt j = if j = k then b else m.byteAt j := by
  unfold Memory.setByte
  by_cases hj : j = k
  · subst hj
    simp only [if_true]
    split
    · next hb => rw [hb, Memory.byteAt_of_unlisted _ _ (Memory.filter_unlisted m j)]
    · exact Memory.byteAt_insertCell_same _ _ _ (Memory.filter_unlisted m j)
  · simp only [hj, if_false]
    split
    · exact Memory.byteAt_filter_ne m k j hj
    · rw [Memory.byteAt_insertCell_ne _ _ _ _ hj, Memory.byteAt_filter_ne m k j hj]

/-! ### Words -/

/-- Bit `i` of a Word made of two bytes. -/
theorem getLsbD_bytes (hi lo : Byte) (i : Nat) :
    (hi ++ lo : Word).getLsbD i = if i < 8 then lo.getLsbD i else hi.getLsbD (i - 8) := BitVec.getLsbD_append

/-- A Word is its high byte beside its low byte (00_scope.md R6). -/
theorem slice_append (v : Word) : (slice v 15 8 ++ slice v 7 0 : Word) = v := by
  apply BitVec.eq_of_getLsbD_eq
  intro i hi
  rw [getLsbD_bytes]
  by_cases h : i < 8
  · simp [slice, h]
  · simp [slice, h, show 8 + (i - 8) = i by omega, show i - 8 ≤ 7 by omega]

/-- The low byte of a cell is the one under its even key (20_memory.md R51). -/
theorem Memory.read_low (m : Memory) (a : Word) : slice (m.read a) 7 0 = m.byteAt (2 * a.toNat) := by
  apply BitVec.eq_of_getLsbD_eq
  intro i hi
  have hi' : i < 8 := hi
  simp only [slice, Memory.read, BitVec.getLsbD_extractLsb, getLsbD_bytes]
  simp [hi']

/-- The high byte of a cell is the one under its odd key (20_memory.md R51). -/
theorem Memory.read_high (m : Memory) (a : Word) : slice (m.read a) 15 8 = m.byteAt (2 * a.toNat + 1) := by
  apply BitVec.eq_of_getLsbD_eq
  intro i hi
  have hi' : i < 8 := hi
  simp only [slice, Memory.read, BitVec.getLsbD_extractLsb, getLsbD_bytes]
  simp [hi']

/-- What a cell reads as after a cell is written (20_memory.md R50): the Word written, and every other cell as before. -/
@[simp] theorem Memory.read_write (m : Memory) (a b v : Word) :
    (m.write a v).read b = if b = a then v else m.read b := by
  unfold Memory.read Memory.write
  simp only [Memory.byteAt_setByte]
  by_cases h : b = a
  · subst h
    simp only [if_true, show ¬ 2 * b.toNat = 2 * b.toNat + 1 by omega, if_false]
    exact slice_append v
  · have hn : b.toNat ≠ a.toNat := fun e => h (BitVec.eq_of_toNat_eq e)
    simp [h, hn, show ¬ 2 * b.toNat + 1 = 2 * a.toNat by omega, show ¬ 2 * b.toNat = 2 * a.toNat + 1 by omega]

/-- A memory with nothing filled reads as zero (20_memory.md R64). -/
@[simp] theorem Memory.read_nil (a : Word) : Memory.read [] a = 0x0000#16 := by
  simp [Memory.read, Memory.byteAt, Config.unfilledByte]

@[simp] theorem State.memWrite_memRead (s : State) (a b v : Word) :
    (s.memWrite a v).memRead b = if b = a then v else s.memRead b := s.mem.read_write a b v

@[simp] theorem State.storeWord_memRead (s : State) (a b v : Word) :
    (s.storeWord a v).memRead b = if b = a then v else s.memRead b := s.mem.read_write a b v

/-! ### The canonical form -/

theorem Memory.mem_insertCell (m : Memory) (k : Nat) (b : Byte) (c : Host.Cell) :
    c ∈ Memory.insertCell m k b → c = (k, b) ∨ c ∈ m := by
  induction m with
  | nil => simp [Memory.insertCell]
  | cons d m ih =>
    unfold Memory.insertCell
    split
    · simp
    · intro hc
      rcases List.mem_cons.1 hc with rfl | hc
      · simp
      · rcases ih hc with h | h <;> simp [h]

theorem Memory.insertCell_sorted (m : Memory) (k : Nat) (b : Byte) (hk : ∀ c ∈ m, c.1 ≠ k)
    (hm : m.Pairwise fun c d => c.1 < d.1) :
    (Memory.insertCell m k b).Pairwise fun c d => c.1 < d.1 := by
  induction m with
  | nil => simp [Memory.insertCell]
  | cons c m ih =>
    obtain ⟨hc, hm'⟩ := List.pairwise_cons.1 hm
    unfold Memory.insertCell
    split
    · next h =>
      refine List.pairwise_cons.2 ⟨fun d hd => ?_, hm⟩
      rcases List.mem_cons.1 hd with rfl | hd
      · exact h
      · exact Nat.lt_trans h (hc d hd)
    · next h =>
      refine List.pairwise_cons.2 ⟨fun d hd => ?_, ih (fun d hd => hk d (by simp [hd])) hm'⟩
      rcases Memory.mem_insertCell m k b d hd with rfl | hd
      · have := hk c (by simp)
        simp only
        omega
      · exact hc d hd

/-- Setting a byte inside the memory keeps the canonical form. -/
theorem Memory.setByte_wf (m : Memory) (k : Nat) (b : Byte) (hm : m.wf) (hk : k < 2 * Config.memSize) :
    (m.setByte k b).wf := by
  obtain ⟨hs, hv⟩ := hm
  have hs' := hs.filter (fun c : Host.Cell => c.1 != k)
  have hv' : ∀ c ∈ m.filter (fun c => c.1 != k), c.2 ≠ Config.unfilledByte ∧ c.1 < 2 * Config.memSize :=
    fun c hc => hv c (List.mem_filter.1 hc).1
  unfold Memory.setByte
  split
  · exact ⟨hs', hv'⟩
  · next hb =>
    refine ⟨Memory.insertCell_sorted _ _ _ (Memory.filter_unlisted m k) hs', fun c hc => ?_⟩
    rcases Memory.mem_insertCell _ _ _ _ hc with rfl | hc
    · exact ⟨hb, hk⟩
    · exact hv' c hc

/-- Writing a Word keeps the canonical form. -/
theorem Memory.write_wf (m : Memory) (a v : Word) (hm : m.wf) : (m.write a v).wf := by
  have ha := a.isLt
  unfold Memory.write
  refine Memory.setByte_wf _ _ _ (Memory.setByte_wf _ _ _ hm ?_) ?_ <;> simp only [Config.memSize] <;> omega

/-- The memory of the reset state has the canonical form. -/
theorem State.reset_mem_wf : State.reset.mem.wf := by
  simp [State.reset, Memory.wf]

end Sys2Proof.Machine
end

