-- ==== Sys2Proof/Laws/Ops.lean ====
section
/-! SUPPORT. For each shared operation one lemma that says once everything it can do; the proofs about instructions cite these
and do not unfold the operations. -/

namespace Sys2Proof.Machine

/-! ### Flags -/

/-- `setcc` writes the flag of the value read as two's complement (10_state.md R30). -/
theorem condOf_matches (v : Word) : CondMatches (condOf v) v := by
  unfold CondMatches condOf flagOf
  by_cases h0 : v = 0x0000#16
  · subst h0
    simp
  · have hz : v.toInt ≠ 0 := fun h => h0 (BitVec.eq_of_toInt_eq (by simpa using h))
    have hm := BitVec.msb_eq_toInt (x := v)
    by_cases hn : v.toInt < 0 <;> simp [h0, hm, hn, hz]
    omega

/-- `setcc` writes a legal COND (10_state.md R29). -/
theorem condOf_legal (v : Word) : CondLegal (condOf v) := ⟨flagOf v, rfl⟩

/-! ### Operands -/

/-- Zero-extension keeps the number (00_scope.md R9). -/
theorem zext16_toNat {n : Nat} (v : BitVec n) (h : n ≤ 16) : (zext16 v).toNat = v.toNat := by
  simp only [zext16, BitVec.toNat_setWidth]
  exact Nat.mod_eq_of_lt (Nat.lt_of_lt_of_le v.isLt (Nat.pow_le_pow_right (by decide) h))

/-- A PC-relative address as a number (42_load_store.md R150). -/
theorem pcRelative_toNat {n : Nat} (s : State) (off : BitVec n) (h : n ≤ 16) :
    (pcRelative s off).toNat = (s.pc.toNat + 1 + off.toNat) % 65536 := by
  simp [pcRelative, BitVec.toNat_add, zext16_toNat off h]

/-- A base plus offset address as a number (42_load_store.md R150). -/
theorem baseOffset_toNat (s : State) (base : Reg) (off : BitVec 6) :
    (baseOffset s base off).toNat = ((s.reg base).toNat + off.toNat) % 65536 := by
  simp [baseOffset, BitVec.toNat_add, zext16_toNat off (by decide)]

/-! ### State updates -/

/-- A result write: everything it changes and everything it leaves (40_arith_logic.md R110). -/
theorem State.writeResult_produces (s : State) (dr : Reg) (v : Word) : ProducesValue s (s.writeResult dr v) dr v :=
  ⟨by simp, condOf_matches v, rfl, fun q hq => by simp [hq], fun _ => rfl, ⟨rfl, rfl⟩, ⟨rfl, rfl⟩⟩

/-- A store: everything it changes and everything it leaves (42_load_store.md R150). -/
theorem State.storeWord_stores (s : State) (ea v : Word) : StoresWord s (s.storeWord ea v) ea v :=
  ⟨by simp, fun a ha => by simp [ha], rfl, rfl, fun _ => rfl, ⟨rfl, rfl⟩, ⟨rfl, rfl⟩⟩

/-- A write of PC changes PC only. -/
theorem State.setPc_jumps (s : State) (target : Word) : OnlyJumps s (s.setPc target) target :=
  ⟨rfl, rfl, fun _ => rfl, fun _ => rfl, ⟨rfl, rfl⟩, ⟨rfl, rfl⟩⟩

/-- Console output followed by the fetch increment. -/
theorem State.consolePut_advance_outputs (s : State) (bs : List Byte) :
    OnlyOutputs s (s.consolePut bs).advance bs (s.pc + 1#16) :=
  ⟨rfl, rfl, rfl, rfl, fun _ => rfl, fun _ => rfl, ⟨rfl, rfl⟩⟩

/-- Console output with PC left at the instruction. -/
theorem State.consolePut_outputs (s : State) (bs : List Byte) : OnlyOutputs s (s.consolePut bs) bs s.pc :=
  ⟨rfl, rfl, rfl, rfl, fun _ => rfl, fun _ => rfl, ⟨rfl, rfl⟩⟩

/-- Taking a character: it was the first of the stream, and only the stream changes (00_scope.md R14). -/
theorem State.consoleTake_cases {s t : State} {c : Byte} (h : s.consoleTake = some (c, t)) :
    ∃ rest, s.consoleIn = c :: rest ∧ t = { s with consoleIn := rest } := by
  unfold State.consoleTake at h
  split at h
  · cases h
  · next d rest hin =>
    cases h
    exact ⟨rest, hin, rfl⟩

/-- Nothing is taken exactly from an empty stream. -/
theorem State.consoleTake_none {s : State} : s.consoleTake = none ↔ s.consoleIn = [] := by
  unfold State.consoleTake
  split <;> simp_all

/-! ### The services -/

/-- GETC has no step on an empty stream, and otherwise writes the first character (43_trap_system.md R182). -/
theorem serviceGetc_cases (s : State) :
    (s.consoleIn = [] ∧ serviceGetc s = .fault .awaitingInput) ∨
      ∃ c rest, s.consoleIn = c :: rest ∧
        serviceGetc s = .next (State.writeResult { s with consoleIn := rest } 0 (zext16 c)) := by
  unfold serviceGetc
  split
  · next h => exact .inl ⟨State.consoleTake_none.1 h, rfl⟩
  · next c t h =>
    obtain ⟨rest, hin, rfl⟩ := State.consoleTake_cases h
    exact .inr ⟨c, rest, hin, rfl⟩

/-- A string output either ends, and PC moves on, or makes a lap, and PC stays (43_trap_system.md R184). -/
theorem finishString_cases (s : State) (walk : StringWalk) :
    (walk.ended = true ∧ finishString s walk = (s.consolePut walk.bytes).advance) ∨
      (walk.ended = false ∧ finishString s walk = s.consolePut walk.bytes) := by
  unfold finishString
  cases walk.ended <;> simp

/-- IN has no step, or completes with a result on R0, COND and the console streams; which of the two, and the result, is
the free value (43_trap_system.md R185). -/
theorem serviceIn_cases (s : State) :
    (Config.trapInEffect s.regs s.pc s.cond s.consoleIn = none ∧ serviceIn s = .fault .awaitingInput) ∨
      ∃ r : Config.TrapInResult, Config.trapInEffect s.regs s.pc s.cond s.consoleIn = some r ∧
        serviceIn s = .next { (s.setReg 0 r.r0).advance with
          cond := flagBits r.flag, consoleIn := r.input, consoleOut := s.consoleOut ++ r.output } := by
  unfold serviceIn
  cases Config.trapInEffect s.regs s.pc s.cond s.consoleIn with
  | none => exact .inl ⟨rfl, rfl⟩
  | some r => exact .inr ⟨r, rfl, rfl⟩

/-! ### The step -/

/-- Nothing stops the core before the fetch exactly when it is Running (10_state.md R39). -/
theorem State.stopped_eq_none {s : State} : s.stopped = none ↔ Running s := by
  unfold State.stopped Running
  cases hf : s.fault <;> cases hr : s.run <;> simp

/-- What a step can do: from a Running core, execute the instruction at PC, and nothing else (10_state.md R25). -/
theorem step_next_cases {s t : State} (h : step s = .next t) :
    Running s ∧ exec (decode s.fetchWord) s = .next t := by
  unfold step at h
  split at h
  · cases h
  · next hs => exact ⟨State.stopped_eq_none.1 hs, h⟩

end Sys2Proof.Machine
end

