-- ==== Sys2Proof/Laws/PerInstr.lean ====
section
/-! SUPPORT. One family of facts proved constructor by constructor: every instruction's encoding selects that instruction's row of
spec/opcode_table.json (30_encoding.md R102). -/

namespace Sys2Proof.Laws

/-- The encoding selects the instruction's row: `w AND mask = match` (30_encoding.md R102). -/
def EncodesInItsRow.Statement (i : Instr) : Prop := encode i &&& (tableRow i).mask = (tableRow i).pattern

theorem EncodesInItsRow.br (mask : BitVec 3) (off : BitVec 9) :
    EncodesInItsRow.Statement (.br mask off) := by
  apply BitVec.eq_of_getLsbD_eq
  intro i hi
  interval_cases i <;> simp [encode, tableRow, placeOp, place, opcodeBits]

theorem EncodesInItsRow.addReg (dr : Reg) (sr1 : Reg) (sr2 : Reg) :
    EncodesInItsRow.Statement (.addReg dr sr1 sr2) := by
  apply BitVec.eq_of_getLsbD_eq
  intro i hi
  interval_cases i <;> simp [encode, encodeRR, tableRow, placeOp, placeReg, place, opcodeBits]

theorem EncodesInItsRow.addImm (dr : Reg) (sr1 : Reg) (imm : BitVec 5) :
    EncodesInItsRow.Statement (.addImm dr sr1 imm) := by
  apply BitVec.eq_of_getLsbD_eq
  intro i hi
  interval_cases i <;> simp [encode, encodeRI, tableRow, placeOp, placeReg, place, opcodeBits]

theorem EncodesInItsRow.ld (dr : Reg) (off : BitVec 9) :
    EncodesInItsRow.Statement (.ld dr off) := by
  apply BitVec.eq_of_getLsbD_eq
  intro i hi
  interval_cases i <;> simp [encode, encodeM9, tableRow, placeOp, placeReg, place, opcodeBits]

theorem EncodesInItsRow.st (sr : Reg) (off : BitVec 9) :
    EncodesInItsRow.Statement (.st sr off) := by
  apply BitVec.eq_of_getLsbD_eq
  intro i hi
  interval_cases i <;> simp [encode, encodeM9, tableRow, placeOp, placeReg, place, opcodeBits]

theorem EncodesInItsRow.jsr (off : BitVec 11) :
    EncodesInItsRow.Statement (.jsr off) := by
  apply BitVec.eq_of_getLsbD_eq
  intro i hi
  interval_cases i <;> simp [encode, tableRow, placeOp, place, opcodeBits]

theorem EncodesInItsRow.jsrr (base : Reg) :
    EncodesInItsRow.Statement (.jsrr base) := by
  apply BitVec.eq_of_getLsbD_eq
  intro i hi
  interval_cases i <;> simp [encode, encodeJR, tableRow, placeOp, placeReg, place, opcodeBits]

theorem EncodesInItsRow.andReg (dr : Reg) (sr1 : Reg) (sr2 : Reg) :
    EncodesInItsRow.Statement (.andReg dr sr1 sr2) := by
  apply BitVec.eq_of_getLsbD_eq
  intro i hi
  interval_cases i <;> simp [encode, encodeRR, tableRow, placeOp, placeReg, place, opcodeBits]

theorem EncodesInItsRow.andImm (dr : Reg) (sr1 : Reg) (imm : BitVec 5) :
    EncodesInItsRow.Statement (.andImm dr sr1 imm) := by
  apply BitVec.eq_of_getLsbD_eq
  intro i hi
  interval_cases i <;> simp [encode, encodeRI, tableRow, placeOp, placeReg, place, opcodeBits]

theorem EncodesInItsRow.ldr (dr : Reg) (base : Reg) (off : BitVec 6) :
    EncodesInItsRow.Statement (.ldr dr base off) := by
  apply BitVec.eq_of_getLsbD_eq
  intro i hi
  interval_cases i <;> simp [encode, encodeM6, tableRow, placeOp, placeReg, place, opcodeBits]

theorem EncodesInItsRow.str (sr : Reg) (base : Reg) (off : BitVec 6) :
    EncodesInItsRow.Statement (.str sr base off) := by
  apply BitVec.eq_of_getLsbD_eq
  intro i hi
  interval_cases i <;> simp [encode, encodeM6, tableRow, placeOp, placeReg, place, opcodeBits]

theorem EncodesInItsRow.rti : EncodesInItsRow.Statement .rti := by
  unfold EncodesInItsRow.Statement
  decide

theorem EncodesInItsRow.not (dr : Reg) (sr : Reg) :
    EncodesInItsRow.Statement (.not dr sr) := by
  apply BitVec.eq_of_getLsbD_eq
  intro i hi
  interval_cases i <;> simp [encode, tableRow, placeOp, placeReg, place, opcodeBits]

theorem EncodesInItsRow.ldi (dr : Reg) (off : BitVec 9) :
    EncodesInItsRow.Statement (.ldi dr off) := by
  apply BitVec.eq_of_getLsbD_eq
  intro i hi
  interval_cases i <;> simp [encode, encodeM9, tableRow, placeOp, placeReg, place, opcodeBits]

theorem EncodesInItsRow.sti (sr : Reg) (off : BitVec 9) :
    EncodesInItsRow.Statement (.sti sr off) := by
  apply BitVec.eq_of_getLsbD_eq
  intro i hi
  interval_cases i <;> simp [encode, encodeM9, tableRow, placeOp, placeReg, place, opcodeBits]

theorem EncodesInItsRow.jmp (base : Reg) :
    EncodesInItsRow.Statement (.jmp base) := by
  apply BitVec.eq_of_getLsbD_eq
  intro i hi
  interval_cases i <;> simp [encode, encodeJR, tableRow, placeOp, placeReg, place, opcodeBits]

theorem EncodesInItsRow.res : EncodesInItsRow.Statement .res := by
  unfold EncodesInItsRow.Statement
  decide

theorem EncodesInItsRow.lea (dr : Reg) (off : BitVec 9) :
    EncodesInItsRow.Statement (.lea dr off) := by
  apply BitVec.eq_of_getLsbD_eq
  intro i hi
  interval_cases i <;> simp [encode, encodeM9, tableRow, placeOp, placeReg, place, opcodeBits]

theorem EncodesInItsRow.trap (v : BitVec 8) :
    EncodesInItsRow.Statement (.trap v) := by
  apply BitVec.eq_of_getLsbD_eq
  intro i hi
  interval_cases i <;> simp [encode, encodeTV, tableRow, placeOp, place, opcodeBits]

theorem EncodesInItsRow.trapGetc : EncodesInItsRow.Statement .trapGetc := by
  unfold EncodesInItsRow.Statement
  decide

theorem EncodesInItsRow.trapOut : EncodesInItsRow.Statement .trapOut := by
  unfold EncodesInItsRow.Statement
  decide

theorem EncodesInItsRow.trapPuts : EncodesInItsRow.Statement .trapPuts := by
  unfold EncodesInItsRow.Statement
  decide

theorem EncodesInItsRow.trapIn : EncodesInItsRow.Statement .trapIn := by
  unfold EncodesInItsRow.Statement
  decide

theorem EncodesInItsRow.trapPutsp : EncodesInItsRow.Statement .trapPutsp := by
  unfold EncodesInItsRow.Statement
  decide

theorem EncodesInItsRow.trapHalt : EncodesInItsRow.Statement .trapHalt := by
  unfold EncodesInItsRow.Statement
  decide

end Sys2Proof.Laws
end

