-- ==== Sys2Proof/Tests/Slice0.lean ====
section
/-! SUPPORT. Tests: Words of the spec's encodings decode to the instructions they stand for; the spec's derived vectors
(95_test_vectors.md Part 2, named V-…), one step each; the refusal of an ill-formed term; and, for every statement with
hypotheses, a state and operands that meet them. -/

namespace Sys2Proof.Tests

open Sys2Proof.Machine

/-! ### The helpers: a state about to run a Word, and the state after one step -/

/-- The default start of the vectors: reset, with the instruction Word at 0x3000. -/
def start (w : Word) : State := State.reset.withFetchWord 16 w.toNat

/-- The same with the instruction at another address. -/
def startAt (pc w : Word) : State := (State.reset.setPc pc).withFetchWord 16 w.toNat

/-- The state after one step; the state itself where there is none. -/
def after (s : State) : State :=
  match step s with
  | .next t => t
  | .fault _ | .refused _ => s

/-- A COND preset of a vector. -/
def withCond (s : State) (f : CondFlag) : State := { s with cond := flagBits f }

/-! ### Well-formedness and decoding -/

theorem test_wellFormed_refuses_service_vectors_in_the_generic_row :
    WellFormed (.trap 0x20#8) = false ∧ WellFormed (.trap 0x23#8) = false ∧ WellFormed (.trap 0x25#8) = false ∧
      WellFormed (.trap 0x1F#8) = true ∧ WellFormed (.trap 0x26#8) = true := by decide

/-- Bits written out from the formats of 30_encoding.md R81, opcode first. -/
theorem test_decode_formats_RR_RI_RN :
    decode 0b0001_010_000_0_00_001#16 = .addReg 2 0 1 ∧ decode 0b0001_000_000_1_11111#16 = .addImm 0 0 31#5 ∧
    decode 0b0101_011_001_0_11_010#16 = .andReg 3 1 2 ∧ decode 0b0101_001_001_1_00000#16 = .andImm 1 1 0#5 ∧
    decode 0b1001_010_001_000000#16 = .not 2 1 := by decide

theorem test_decode_formats_BR_JR_JO :
    decode 0b0000_1_0_0_000000010#16 = .br 0b100#3 2#9 ∧ decode 0b0000_0_0_1_111111111#16 = .br 0b001#3 511#9 ∧
    decode 0b1100_111_011_111111#16 = .jmp 3 ∧ decode 0b0100_0_11_010_111111#16 = .jsrr 2 ∧
    decode 0b0100_1_11111111111#16 = .jsr 2047#11 := by decide

theorem test_decode_formats_M9_M6 :
    decode 0b0010_001_000000010#16 = .ld 1 2#9 ∧ decode 0b0011_001_000000011#16 = .st 1 3#9 ∧
    decode 0b1010_010_000000101#16 = .ldi 2 5#9 ∧ decode 0b1011_010_000000001#16 = .sti 2 1#9 ∧
    decode 0b1110_101_111111111#16 = .lea 5 511#9 ∧ decode 0b0110_011_001_000100#16 = .ldr 3 1 4#6 ∧
    decode 0b0111_011_001_000010#16 = .str 3 1 2#6 := by decide

theorem test_decode_formats_TV_XX :
    decode 0b1111_0000_00100000#16 = .trapGetc ∧ decode 0b1111_0000_00100001#16 = .trapOut ∧
    decode 0b1111_0000_00100010#16 = .trapPuts ∧ decode 0b1111_0000_00100011#16 = .trapIn ∧
    decode 0b1111_0000_00100100#16 = .trapPutsp ∧ decode 0b1111_1111_00100101#16 = .trapHalt ∧
    decode 0b1111_0000_00100110#16 = .trap 0x26#8 ∧ decode 0b1111_1010_11111111#16 = .trap 0xFF#8 ∧
    decode 0b1000_111111111111#16 = .rti ∧ decode 0b1101_101010111100#16 = .res := by decide

/-- The examples' Words (30_encoding.md R100: ignored bits as 0, NOT's as ones). -/
theorem test_encode_examples :
    encode (.addReg 2 0 1) = 0x1401#16 ∧ encode (.andImm 1 1 0#5) = 0x5260#16 ∧ encode (.not 2 1) = 0x947F#16 ∧
    encode (.jsrr 2) = 0x4080#16 ∧ encode (.jmp 7) = 0xC1C0#16 ∧ encode (.str 3 1 2#6) = 0x7642#16 ∧
    encode .trapHalt = 0xF025#16 ∧ encode .rti = 0x8000#16 := by decide

theorem test_decodeTableWord :
    decodeTableWord 16 0xE010 = some (.lea 0 16#9) ∧ decodeTableWord 32 0xE010 = none := by decide

/-- V-CODEC-2, 4, 6, 9. -/
theorem test_codec : slice 0xABCD#16 11 9 = 5#3 ∧ flagBit 0xABCD#16 5 5 = false ∧ slice 0xABCD#16 8 0 = 0x1CD#9 ∧
    flagBit 0xABCD#16 11 11 = true := by decide

/-- V-CC-1 to V-CC-5. -/
theorem test_setcc : condOf 0x0000#16 = 0b010#3 ∧ condOf 0x0001#16 = 0b001#3 ∧ condOf 0x7FFF#16 = 0b001#3 ∧
    condOf 0x8000#16 = 0b100#3 ∧ condOf 0xFFFF#16 = 0b100#3 := by decide

/-! ### One step each -/

/-- V-ADD-2. -/
theorem test_add_register_wraps :
    let t := after (((start 0x1001#16).setReg 0 0xFFFF#16).setReg 1 0x0001#16)
    t.reg 0 = 0x0000#16 ∧ t.cond = 0b010#3 ∧ t.pc = 0x3001#16 := by decide

/-- V-ADD-9. -/
theorem test_add_doubles_one_register :
    let t := after ((start 0x1241#16).setReg 1 0x8001#16)
    t.reg 1 = 0x0002#16 ∧ t.cond = 0b001#3 := by decide

/-- V-ADD-5. -/
theorem test_add_immediate_is_not_sign_extended :
    let t := after ((start 0x103F#16).setReg 0 0x0001#16)
    t.reg 0 = 0x0020#16 ∧ t.cond = 0b001#3 ∧ t.pc = 0x3001#16 := by decide

/-- V-AND-1. -/
theorem test_and_register :
    let t := after (((start 0x5642#16).setReg 1 0xFF0F#16).setReg 2 0x0FF0#16)
    t.reg 3 = 0x0F00#16 ∧ t.cond = 0b001#3 ∧ t.pc = 0x3001#16 := by decide

/-- V-AND-3. -/
theorem test_and_immediate_is_not_sign_extended :
    let t := after ((start 0x503F#16).setReg 0 0xFFFF#16)
    t.reg 0 = 0x001F#16 ∧ t.cond = 0b001#3 ∧ t.pc = 0x3001#16 := by decide

/-- V-NOT-1. -/
theorem test_not :
    let t := after ((start 0x947F#16).setReg 1 0x00FF#16)
    t.reg 2 = 0xFF00#16 ∧ t.cond = 0b100#3 ∧ t.pc = 0x3001#16 := by decide

/-- V-BR-1, V-BR-2. -/
theorem test_br_taken_and_not_taken :
    (after (start 0x0403#16)).pc = 0x3004#16 ∧ (after (withCond (start 0x0403#16) .positive)).pc = 0x3001#16 := by decide

/-- V-BR-6. -/
theorem test_br_target_wraps : (after (startAt 0xFF00#16 0x0FFF#16)).pc = 0x0100#16 := by decide

/-- V-JMP-1. -/
theorem test_jmp :
    let t := after (withCond ((start 0xC0C0#16).setReg 3 0x4000#16) .negative)
    t.pc = 0x4000#16 ∧ t.cond = 0b100#3 := by decide

/-- V-JSR-1: R7 is not written. -/
theorem test_jsr_without_link :
    let t := after ((start 0x4810#16).setReg 7 0xAAAA#16)
    t.pc = 0x3011#16 ∧ t.reg 7 = 0xAAAA#16 := by decide

/-- V-JSR-4. -/
theorem test_jsr_wraps : (after (startAt 0xFFFF#16 0x4FFF#16)).pc = 0x07FF#16 := by decide

/-- V-JSRR-2. -/
theorem test_jsrr_through_R7 :
    let t := after ((start 0x41C0#16).setReg 7 0x5000#16)
    t.pc = 0x5000#16 ∧ t.reg 7 = 0x5000#16 := by decide

/-- V-LD-1. -/
theorem test_ld :
    let t := after ((start 0x2202#16).memWrite 0x3003#16 0xBEEF#16)
    t.reg 1 = 0xBEEF#16 ∧ t.cond = 0b100#3 ∧ t.pc = 0x3001#16 := by decide

/-- V-LD-4. -/
theorem test_ld_address_wraps :
    let t := after ((startAt 0xFFF0#16 0x23FF#16).memWrite 0x01F0#16 0x7777#16)
    t.reg 1 = 0x7777#16 ∧ t.pc = 0xFFF1#16 := by decide

/-- V-LDI-1. -/
theorem test_ldi :
    let t := after (((start 0xA405#16).memWrite 0x3006#16 0x4000#16).memWrite 0x4000#16 0x0007#16)
    t.reg 2 = 0x0007#16 ∧ t.cond = 0b001#3 ∧ t.pc = 0x3001#16 := by decide

/-- V-LDR-2: the base is the destination. -/
theorem test_ldr_chases_pointer :
    let t := after (((start 0x6240#16).setReg 1 0x4000#16).memWrite 0x4000#16 0x4001#16)
    t.reg 1 = 0x4001#16 ∧ t.cond = 0b001#3 := by decide

/-- V-LDR-4. -/
theorem test_ldr_offset_is_not_sign_extended :
    let t := after (((start 0x607F#16).setReg 1 0x4000#16).memWrite 0x403F#16 0x9000#16)
    t.reg 0 = 0x9000#16 ∧ t.cond = 0b100#3 := by decide

/-- V-LEA-3. -/
theorem test_lea_wraps_and_writes_flags :
    let t := after (withCond ((startAt 0xFFFF#16 0xE000#16).setReg 0 0x0005#16) .positive)
    t.reg 0 = 0x0000#16 ∧ t.cond = 0b010#3 ∧ t.pc = 0x0000#16 := by decide

/-- V-ST-1. -/
theorem test_st :
    let t := after (withCond ((start 0x3203#16).setReg 1 0x1234#16) .negative)
    t.memRead 0x3004#16 = 0x1234#16 ∧ t.memRead 0x3003#16 = 0x0000#16 ∧ t.cond = 0b100#3 ∧ t.pc = 0x3001#16 := by decide

/-- V-STI-1. -/
theorem test_sti :
    let t := after (((start 0xB401#16).setReg 2 0x00AA#16).memWrite 0x3002#16 0x5000#16)
    t.memRead 0x5000#16 = 0x00AA#16 ∧ t.memRead 0x3002#16 = 0x5000#16 ∧ t.cond = 0b010#3 := by decide

/-- V-STR-1. -/
theorem test_str :
    let t := after (withCond (((start 0x7642#16).setReg 1 0x4000#16).setReg 3 0xFFFF#16) .positive)
    t.memRead 0x4002#16 = 0xFFFF#16 ∧ t.cond = 0b001#3 ∧ t.pc = 0x3001#16 := by decide

/-- V-STR-3. -/
theorem test_str_address_wraps :
    (after (((start 0x707F#16).setReg 0 0x0077#16).setReg 1 0xFFFF#16)).memRead 0x003E#16 = 0x0077#16 := by decide

/-- V-TRAP-12b. -/
theorem test_trap_unknown_vector :
    after (withCond ((start 0xF026#16).setReg 0 0x1234#16) .negative) =
      (withCond ((start 0xF026#16).setReg 0 0x1234#16) .negative).setPc 0x3001#16 := by decide

/-- V-TRAP-2. -/
theorem test_getc :
    let t := after (withCond (((start 0xF020#16).setReg 0 0xFFFF#16).supplyInput [0x41#8]) .negative)
    t.reg 0 = 0x0041#16 ∧ t.cond = 0b001#3 ∧ t.consoleIn = [] ∧ t.pc = 0x3001#16 := by decide

/-- V-TRAP-4: "HOLD (no step)". -/
theorem test_getc_holds : step (start 0xF020#16) = .fault .awaitingInput := rfl

/-- V-TRAP-5. -/
theorem test_out :
    let t := after (withCond ((start 0xF021#16).setReg 0 0x1248#16) .negative)
    t.consoleOut = [0x48#8] ∧ t.cond = 0b100#3 ∧ t.pc = 0x3001#16 := by decide

/-- V-TRAP-7: a Word above 0x00FF, and 0x0100 is no terminator. -/
theorem test_puts_drops_high_bytes :
    let t := after (((((start 0xF022#16).setReg 0 0x3100#16).memWrite 0x3100#16 0x1241#16).memWrite
      0x3101#16 0x0100#16).memWrite 0x3102#16 0x0042#16)
    t.consoleOut = [0x41#8, 0x00#8, 0x42#8] ∧ t.pc = 0x3001#16 := by decide

/-- V-TRAP-15: the address wraps. -/
theorem test_puts_wraps :
    (after (((start 0xF022#16).setReg 0 0xFFFF#16 |>.memWrite 0xFFFF#16 0x0041#16).memWrite
      0x0000#16 0x0042#16)).consoleOut = [0x41#8, 0x42#8] := by decide

/-- V-TRAP-9: the Word after the terminator is not read. -/
theorem test_putsp_odd_length :
    let t := after (((((start 0xF024#16).setReg 0 0x3100#16).memWrite 0x3100#16 0x6548#16).memWrite
      0x3101#16 0x006C#16).memWrite 0x3102#16 0x4141#16)
    t.consoleOut = [0x48#8, 0x65#8, 0x6C#8] ∧ t.pc = 0x3001#16 := by decide

/-- V-TRAP-16: the byte after a zero low byte is not output. -/
theorem test_putsp_even_length :
    (after ((((start 0xF024#16).setReg 0 0x3100#16).memWrite 0x3100#16 0x6948#16).memWrite
      0x3101#16 0x4100#16)).consoleOut = [0x48#8, 0x69#8] := by decide

/-- IN's two outcomes, whatever the free value is (43_trap_system.md R185; notes/assumptions/11.md): a hold, here with a
character waiting, is no step. -/
theorem test_in_holds :
    applyTrapIn ((start 0xF023#16).supplyInput [0x41#8]) none = .fault .awaitingInput := rfl

/-- A completion, here with no character waiting, changes R0, COND and the streams, and PC is one past. -/
theorem test_in_completes :
    applyTrapIn (start 0xF023#16) (some ⟨0x8001#16, .negative, [0x42#8], [0x3E#8]⟩) =
      .next { (start 0xF023#16).setReg 0 0x8001#16 with
        pc := 0x3001#16, cond := 0b100#3, consoleIn := [0x42#8], consoleOut := [0x3E#8] } := rfl

/-- V-TRAP-1, V-SEQ-3. -/
theorem test_halt :
    after (start 0xF025#16) = { start 0xF025#16 with run := false, pc := 0x3001#16 } ∧
      (after (start 0xF025#16)).stopped = some .halted := by decide

/-- V-RTI-2. -/
theorem test_rti :
    after (startAt 0x4000#16 0x8FFF#16) =
      { startAt 0x4000#16 0x8FFF#16 with pc := 0x4001#16, fault := some ⟨0x8#4, 0x4000#16⟩ } := by decide

/-- V-RES-2, V-SEQ-4. -/
theorem test_res :
    after (startAt 0xFFFF#16 0xDABC#16) =
      { startAt 0xFFFF#16 0xDABC#16 with pc := 0x0000#16, fault := some ⟨0xD#4, 0xFFFF#16⟩ } ∧
      (after (startAt 0xFFFF#16 0xDABC#16)).stopped = some (.decodeFailed ⟨0xD#4, 0xFFFF#16⟩) := by decide

/-- V-SEQ-5. -/
theorem test_reset_event_keeps_memory :
    let t := (after (start 0xD000#16)).resetEvent []
    t.pc = 0x3000#16 ∧ t.fault = none ∧ t.run = true ∧ t.memRead 0x3000#16 = 0xD000#16 := by decide

/-- S11: the image of the file 00 30 25 10 25 F0, and an odd trailing byte. -/
theorem test_load_image :
    loadImage [0x00#8, 0x30#8, 0x25#8, 0x10#8, 0x25#8, 0xF0#8] =
      some (Memory.write (Memory.write [] 0x3000#16 0x1025#16) 0x3001#16 0xF025#16) ∧
    loadImage [0x00#8, 0x30#8, 0x25#8] = none ∧ loadImage [0x00#8] = none := by decide

end Sys2Proof.Tests
end

