-- ==== Sys2Proof/Tests/Witnesses.lean ====
section
/-! SUPPORT. For each statement with hypotheses, a concrete state and operands that meet them all together, with the values where a
range of the statement begins or ends. -/

namespace Sys2Proof.Tests

open Sys2Proof.Machine

/-! ### A memory whose every cell holds one Word -/

/-- Every cell listed, with the same two bytes. -/
def filledMemory (lo hi : Byte) : Memory :=
  (List.range' 0 131072).map fun k => (k, if k % 2 = 0 then lo else hi)

theorem byteAt_map_range' (f : Nat → Byte) (n : Nat) :
    ∀ a k, a ≤ k → k < a + n → Memory.byteAt ((List.range' a n).map fun j => (j, f j)) k = f k := by
  induction n with
  | zero => intro a k _ _; omega
  | succ n ih =>
    intro a k ha hk
    simp only [List.range'_succ, List.map_cons, Memory.byteAt]
    split
    · next h => rw [h]
    · next h => exact ih (a + 1) k (by omega) (by omega)

theorem filledMemory_bytes (lo hi : Byte) (a : Word) :
    slice ((filledMemory lo hi).read a) 7 0 = lo ∧ slice ((filledMemory lo hi).read a) 15 8 = hi := by
  have ha := a.isLt
  rw [Memory.read_low, Memory.read_high, filledMemory,
    byteAt_map_range' (fun k => if k % 2 = 0 then lo else hi) _ _ _ (by omega) (by omega),
    byteAt_map_range' (fun k => if k % 2 = 0 then lo else hi) _ _ _ (by omega) (by omega)]
  simp

theorem filledMemory_read (lo hi : Byte) (a : Word) : (filledMemory lo hi).read a = (hi ++ lo : Word) := by
  obtain ⟨h1, h2⟩ := filledMemory_bytes lo hi a
  rw [← slice_append ((filledMemory lo hi).read a), h1, h2]

/-- Every cell is the Word of PUTS, 0xF022, or of PUTSP, 0xF024. -/
def sessionOf (lo : Byte) : State := State.launch (filledMemory lo 0xF0#8) []

/-! ### 40_arith_logic.md -/

theorem witness_FlagRuleZeroNegativePositive :
    (0x0000#16 = 0x0000#16) ∧ (0x8000#16 ≠ 0x0000#16 ∧ (0x8000#16).getLsbD 15 = true) ∧
      (0xFFFF#16 ≠ 0x0000#16 ∧ (0xFFFF#16).getLsbD 15 = true) ∧
      (0x0001#16 ≠ 0x0000#16 ∧ (0x0001#16).getLsbD 15 = false) ∧
      (0x7FFF#16 ≠ 0x0000#16 ∧ (0x7FFF#16).getLsbD 15 = false) := by decide

theorem witness_AddRegisterForm : slice 0x1419#16 15 12 = opcodeBits .add ∧ flagBit 0x1419#16 5 5 = false := by decide
theorem witness_AddImmediateForm : slice 0x103F#16 15 12 = opcodeBits .add ∧ flagBit 0x103F#16 5 5 = true := by decide
theorem witness_AndRegisterForm : slice 0x565A#16 15 12 = opcodeBits .and ∧ flagBit 0x565A#16 5 5 = false := by decide
theorem witness_AndImmediateForm : slice 0x503F#16 15 12 = opcodeBits .and ∧ flagBit 0x503F#16 5 5 = true := by decide
theorem witness_NotComplementsSource : slice 0x9440#16 15 12 = opcodeBits .not := by decide

/-- V-ADD-8a and V-ADD-8b, and the largest immediate. -/
theorem witness_ModeBitWithEqualOperandsAgrees :
    ((State.reset.setReg 1 0x0005#16).reg 1).toNat = (5#5).toNat ∧
      ((State.reset.setReg 1 0x001F#16).reg 1).toNat = (31#5).toNat := by decide

/-! ### 41_control.md -/

theorem witness_BranchTakenAndNotTaken :
    State.reset.cond &&& 0b010#3 ≠ 0b000#3 ∧ State.reset.cond &&& 0b101#3 = 0b000#3 := by decide

theorem witness_BranchMaskSelectsFlag :
    CondLegal State.reset.cond ∧ CondLegal (withCond State.reset .positive).cond ∧
      CondLegal (withCond State.reset .negative).cond := ⟨⟨.zero, rfl⟩, ⟨.positive, rfl⟩, ⟨.negative, rfl⟩⟩

theorem witness_JumpGoesToBaseRegister : slice 0xCEFF#16 15 12 = opcodeBits .jmp := by decide
theorem witness_JsrJumpsForwardWithoutLink :
    slice 0x4FFF#16 15 12 = opcodeBits .jsr ∧ flagBit 0x4FFF#16 11 11 = true := by decide
theorem witness_JsrrBehavesAsJmp : slice 0x46BF#16 15 12 = opcodeBits .jsr ∧ flagBit 0x46BF#16 11 11 = false := by decide

/-! ### 42_load_store.md -/

theorem witness_StoreIsSeenByTheNextFetch : Running State.reset := ⟨rfl, rfl⟩

/-! ### 43_trap_system.md -/

theorem witness_TrapDispatchesByVector : slice 0xFF25#16 15 12 = opcodeBits .trap := by decide

theorem witness_UnknownTrapVectorIsNoOp :
    ((0x00#8).toNat < 0x20 ∨ 0x25 < (0x00#8).toNat) ∧ ((0x1F#8).toNat < 0x20 ∨ 0x25 < (0x1F#8).toNat) ∧
      ((0x26#8).toNat < 0x20 ∨ 0x25 < (0x26#8).toNat) ∧ ((0xFF#8).toNat < 0x20 ∨ 0x25 < (0xFF#8).toNat) := by decide

theorem witness_GetcReadsOneCharacter :
    (State.reset.supplyInput [0x00#8]).consoleIn = 0x00#8 :: [] ∧
      (State.reset.supplyInput [0xFF#8, 0x41#8]).consoleIn = 0xFF#8 :: [0x41#8] := by decide

theorem witness_GetcHoldsOnEmptyInput :
    Running (start 0xF020#16) ∧ decode (start 0xF020#16).fetchWord = .trapGetc ∧ (start 0xF020#16).consoleIn = [] :=
  ⟨⟨rfl, rfl⟩, by decide, rfl⟩

theorem witness_OutWritesLowByte :
    slice 0xF021#16 15 12 = opcodeBits .trap ∧ slice 0xF021#16 7 0 = serviceVector .out := by decide

/-- V-TRAP-8, the empty string, and V-TRAP-6, two Words. -/
theorem witness_PutsOutputsUpToZeroWord :
    ((State.reset.setReg 0 0x3100#16).memRead (0x3100#16 + BitVec.ofNat 16 0) = 0x0000#16) ∧
    (let s := ((State.reset.setReg 0 0x3100#16).memWrite 0x3100#16 0x0048#16).memWrite 0x3101#16 0x0069#16;
      2 < 65536 ∧ (∀ k, k < 2 → s.memRead (s.reg 0 + BitVec.ofNat 16 k) ≠ 0x0000#16) ∧
        s.memRead (s.reg 0 + BitVec.ofNat 16 2) = 0x0000#16) := by decide

/-- The longest string that ends: every cell but the last before R0's address is the PUTS Word. -/
theorem witness_PutsOutputsUpToZeroWord_longest :
    let s := (sessionOf 0x22#8).memWrite 0xFFFF#16 0x0000#16
    65535 < 65536 ∧ (∀ k, k < 65535 → s.memRead (s.reg 0 + BitVec.ofNat 16 k) ≠ 0x0000#16) ∧
      s.memRead (s.reg 0 + BitVec.ofNat 16 65535) = 0x0000#16 := by
  intro s
  have hr : s.reg 0 = 0x0000#16 := by decide
  refine ⟨by decide, fun k hk => ?_, ?_⟩
  · have hne : ¬ BitVec.ofNat 16 k = 0xFFFF#16 := by
      intro h
      have := congrArg BitVec.toNat h
      simp only [BitVec.toNat_ofNat] at this
      omega
    rw [hr, BitVec.zero_add, State.memWrite_memRead, if_neg hne,
      show (sessionOf 0x22#8).memRead (BitVec.ofNat 16 k) = (0xF0#8 ++ 0x22#8 : Word) from filledMemory_read _ _ _]
    decide
  · rw [hr, BitVec.zero_add, State.memWrite_memRead, if_pos rfl]

theorem witness_UnterminatedPutsRunsForEver :
    Running (sessionOf 0x22#8) ∧ decode (sessionOf 0x22#8).fetchWord = .trapPuts ∧
      ∀ a, (sessionOf 0x22#8).memRead a ≠ 0x0000#16 := by
  have h : ∀ a, (sessionOf 0x22#8).memRead a = (0xF0#8 ++ 0x22#8 : Word) := filledMemory_read _ _
  refine ⟨⟨rfl, rfl⟩, ?_, fun a => ?_⟩
  · rw [State.fetchWord_eq, h]
    decide
  · rw [h]
    decide

/-- V-TRAP-11, the empty string, and V-TRAP-9, an odd length. -/
theorem witness_PutspOutputsUpToZeroByte :
    packedByte (Memory.write [] 0x3100#16 0x4100#16) 0x3100#16 0 = 0x00#8 ∧
    (let s := ((State.reset.setReg 0 0x3100#16).memWrite 0x3100#16 0x6548#16).memWrite 0x3101#16 0x006C#16;
      3 < 131072 ∧ (∀ k, k < 3 → packedByte s.mem (s.reg 0) k ≠ 0x00#8) ∧
        packedByte s.mem (s.reg 0) 3 = 0x00#8) := by decide

theorem witness_UnterminatedPutspRunsForEver :
    Running (sessionOf 0x24#8) ∧ decode (sessionOf 0x24#8).fetchWord = .trapPutsp ∧
      ∀ a, slice ((sessionOf 0x24#8).memRead a) 7 0 ≠ 0x00#8 ∧ slice ((sessionOf 0x24#8).memRead a) 15 8 ≠ 0x00#8 := by
  refine ⟨⟨rfl, rfl⟩, ?_, fun a => ?_⟩
  · rw [State.fetchWord_eq,
      show (sessionOf 0x24#8).memRead (sessionOf 0x24#8).pc = (0xF0#8 ++ 0x24#8 : Word) from filledMemory_read _ _ _]
    decide
  · obtain ⟨h1, h2⟩ := filledMemory_bytes 0x24#8 0xF0#8 a
    have h1' : slice ((sessionOf 0x24#8).memRead a) 7 0 = 0x24#8 := h1
    have h2' : slice ((sessionOf 0x24#8).memRead a) 15 8 = 0xF0#8 := h2
    rw [h1', h2']
    decide

theorem witness_RtiRaisesDecodeFailure : slice 0x8FFF#16 15 12 = opcodeBits .rti := by decide
theorem witness_ResRaisesDecodeFailure : slice 0xDABC#16 15 12 = opcodeBits .res := by decide

/-! ### The sequencer, reset and the loader -/

theorem witness_StepRunsTheDecodedInstruction :
    Running (start 0x1025#16) ∧ decode ((start 0x1025#16).memRead (start 0x1025#16).pc) = .addImm 0 0 5#5 :=
  ⟨⟨rfl, rfl⟩, by decide⟩

/-- A Running core that holds, a Faulted and a Halted core. -/
theorem witness_StepExistsExactlyWhenRunningAndNotHeld :
    (Running (start 0xF020#16) ∧ Holding (start 0xF020#16)) ∧
      exec .trapGetc State.reset = .fault .awaitingInput ∧
      (after (start 0xD000#16)).fault = some ⟨0xD#4, 0x3000#16⟩ ∧
      (after (start 0xF025#16)).fault = none ∧ (after (start 0xF025#16)).run = false :=
  ⟨⟨⟨rfl, rfl⟩, .inl ⟨by decide, rfl⟩⟩, rfl, by decide⟩

/-- An instruction, a step that latches FAULT, and one that does not. -/
theorem witness_OnlyReservedOpcodesRaise :
    WellFormed .res = true ∧
    step (start 0xD000#16) = .next (after (start 0xD000#16)) ∧ step (start 0x1025#16) = .next (after (start 0x1025#16)) ∧
      slice (start 0xD000#16).fetchWord 15 12 = opcodeBits .res := ⟨rfl, rfl, rfl, by decide⟩

theorem witness_ZeroWordOnlyAdvancesPc :
    Running State.reset ∧ State.reset.memRead State.reset.pc = 0x0000#16 := ⟨⟨rfl, rfl⟩, by decide⟩

/-- An image that ends at the last cell, and cells before, after and inside an image. -/
theorem witness_LoaderPlacesImageWords :
    (0xFFFF#16).toNat + [0xF025#16].length ≤ 65536 ∧ (0x3000#16).toNat + [0x1025#16, 0xF025#16].length ≤ 65536 ∧
      1 < [0x1025#16, 0xF025#16].length ∧ (0x2FFF#16).toNat < (0x3000#16).toNat ∧
      (0x3000#16).toNat + [0x1025#16, 0xF025#16].length ≤ (0x3002#16).toNat := by decide

/-! ### Frames -/

theorem witness_OnlyTheDestinationRegisterChanges :
    WellFormed (.ld 1 2#9) = true ∧ exec (.ld 1 2#9) (start 0x2202#16) = .next (after (start 0x2202#16)) ∧
      destOf (.ld 1 2#9) ≠ some 0 := ⟨rfl, rfl, by decide⟩

/-- No destination, a destination, and a COND that is legal before. -/
theorem witness_FlagsFollowTheDestination :
    (WellFormed (.jmp 3) = true ∧ exec (.jmp 3) State.reset = .next (State.reset.setPc 0x0000#16) ∧ destOf (.jmp 3) = none) ∧
    (exec (.lea 0 16#9) State.reset = .next (State.reset.writeResult 0 0x3011#16) ∧ destOf (.lea 0 16#9) = some 0 ∧
      Instr.lea 0 16#9 ≠ .trapIn) ∧
    CondLegal State.reset.cond :=
  ⟨⟨rfl, rfl, rfl⟩, ⟨rfl, rfl, by decide⟩, ⟨.zero, rfl⟩⟩

theorem witness_OnlyStoresChangeMemory :
    exec .trapOut State.reset = .next (serviceOut State.reset) ∧ isStore .trapOut = false := ⟨rfl, rfl⟩

theorem witness_RunIsClearedOnlyByHalt :
    (step (start 0xF025#16) = .next (after (start 0xF025#16)) ∧ (after (start 0xF025#16)).run = false ∧
      decode (start 0xF025#16).fetchWord = .trapHalt) ∧
      exec .trapOut State.reset = .next (serviceOut State.reset) ∧
      exec .trapGetc State.reset = .fault .awaitingInput := ⟨⟨rfl, by decide, by decide⟩, rfl, rfl⟩

theorem witness_PastOutputIsInvisible :
    exec .trapOut State.reset = .next (serviceOut State.reset) ∧
      exec .trapGetc State.reset = .fault .awaitingInput := ⟨rfl, rfl⟩

theorem witness_ConsoleIsReachedOnlyByServices :
    WellFormed .trapOut = true ∧ exec .trapOut State.reset = .next (serviceOut State.reset) ∧
      readsConsole .trapOut = false ∧ writesConsole (.jmp 3) = false := ⟨rfl, rfl, rfl, rfl⟩

/-! ### Memory and encoding -/

theorem witness_CanonicalMemoryIsItsReads :
    let m := Memory.write [] 0xFFFF#16 0x00AB#16
    m.wf ∧ m.wf ∧ ∀ a, m.read a = m.read a := ⟨by decide, by decide, fun _ => rfl⟩

theorem witness_DecodeOfEncodeIsTheInstruction :
    WellFormed (.trap 0x26#8) = true ∧ WellFormed (.ldr 7 7 63#6) = true := by decide

/-- V-ADD-7: the ignored bits ir[4:3]. -/
theorem witness_IgnoredBitsDoNotMatter :
    0x1401#16 &&& usedBits (decode 0x1401#16) = 0x1419#16 &&& usedBits (decode 0x1401#16) := by decide

/-- A Word of a service row matches the generic row as well. -/
theorem witness_DecodeSelectsTheTableRow :
    0xF020#16 &&& (tableRow (.trap 0#8)).mask = (tableRow (.trap 0#8)).pattern ∧
      0xF020#16 &&& (tableRow .trapGetc).mask = (tableRow .trapGetc).pattern := by decide

theorem witness_CodecValueAndReconstruction : (0 ≤ 0 ∧ 0 ≤ 15) ∧ (0 ≤ 15 ∧ 15 ≤ 15) ∧ (15 ≤ 15 ∧ 15 ≤ 15) := by decide

/-! ### The invariant -/

theorem witness_ResetMeetsTheInvariant : Memory.wf (Memory.write [] 0x3000#16 0xF025#16) := by decide

/-- A state that meets the invariant and has a step: one about to latch FAULT. -/
theorem witness_EveryStepKeepsTheInvariant :
    Inv (start 0xD000#16) ∧ step (start 0xD000#16) = .next (after (start 0xD000#16)) :=
  ⟨⟨by decide, ⟨.zero, rfl⟩, by intro f hf; cases hf⟩, rfl⟩

end Sys2Proof.Tests
end

section
/-! The flag rule of spec 10_state.md R30: one equation of `flagOf` per flag, and the statement about `setcc`. -/

namespace Sys2Proof.Proofs

open Sys2Proof.Machine

/-! ### The flag of a value, with the high bit read as bit 15 -/

theorem flagOf_zero : flagOf 0x0000#16 = .zero := rfl

theorem flagOf_of_bit15_set {v : Word} (hne : v ≠ 0x0000#16) (hbit : v.getLsbD 15 = true) :
    flagOf v = .negative := by
  have hmsb : v.msb = true := v.msb_eq_getLsbD_last.trans hbit
  simp [flagOf, hne, hmsb]

theorem flagOf_of_bit15_clear {v : Word} (hne : v ≠ 0x0000#16) (hbit : v.getLsbD 15 = false) :
    flagOf v = .positive := by
  have hmsb : v.msb = false := v.msb_eq_getLsbD_last.trans hbit
  simp [flagOf, hne, hmsb]

/-! ### The statement -/

/-- Settles O1: `setcc` writes the bits of `flagOf`, so each clause is one equation of `flagOf`. -/
theorem flagRuleZeroNegativePositive : Obligations.FlagRuleZeroNegativePositive := by
  intro s v
  have hcond : (s.setcc v).cond = flagBits (flagOf v) := s.setcc_cond v
  refine ⟨fun hzero => ?zero, fun hne hbit => ?negative, fun hne hbit => ?positive⟩
  case zero => rw [hcond, hzero, flagOf_zero]
  case negative => rw [hcond, flagOf_of_bit15_set hne hbit]
  case positive => rw [hcond, flagOf_of_bit15_clear hne hbit]

end Sys2Proof.Proofs
end

section
/-! ADD and AND in their register forms, and NOT (spec 40_arith_logic.md R111, R113, R115): the Words that decode to each, the
meaning of each as one result write, and the statements. -/

namespace Sys2Proof.Proofs

open Sys2Proof.Machine

/-! ### The decoder -/

/-- The dispatch table inverts the opcode numbers (30_encoding.md R84). -/
@[simp] theorem opcodeOfBits_opcodeBits (op : Opcode) : opcodeOfBits (opcodeBits op) = op := by
  cases op <;> rfl

theorem decode_of_add_register_mode {w : Word} (hop : slice w 15 12 = opcodeBits .add) (hmode : flagBit w 5 5 = false) :
    decode w = .addReg (regAt w 11 9) (regAt w 8 6) (regAt w 2 0) := by
  simp [decode, hop, hmode]

theorem decode_of_and_register_mode {w : Word} (hop : slice w 15 12 = opcodeBits .and) (hmode : flagBit w 5 5 = false) :
    decode w = .andReg (regAt w 11 9) (regAt w 8 6) (regAt w 2 0) := by
  simp [decode, hop, hmode]

theorem decode_of_not {w : Word} (hop : slice w 15 12 = opcodeBits .not) :
    decode w = .not (regAt w 11 9) (regAt w 8 6) := by
  simp [decode, hop]

/-! ### The meanings: each is one result write, its operands read in the state before it (40_arith_logic.md R110) -/

theorem exec_addReg (dr sr1 sr2 : Reg) (s : State) :
    exec (.addReg dr sr1 sr2) s = .next (s.writeResult dr (s.reg sr1 + s.reg sr2)) := rfl

theorem exec_andReg (dr sr1 sr2 : Reg) (s : State) :
    exec (.andReg dr sr1 sr2) s = .next (s.writeResult dr (s.reg sr1 &&& s.reg sr2)) := rfl

theorem exec_not (dr sr : Reg) (s : State) :
    exec (.not dr sr) s = .next (s.writeResult dr (~~~ s.reg sr)) := rfl

/-! ### The statements -/

/-- Settles O2: the result write of the wrapped sum. -/
theorem addRegisterForm : Obligations.AddRegisterForm := by
  refine ⟨fun _ hop hmode => decode_of_add_register_mode hop hmode, fun dr sr1 sr2 s => ?_⟩
  have hsum : (s.reg sr1 + s.reg sr2).toNat = ((s.reg sr1).toNat + (s.reg sr2).toNat) % 65536 :=
    BitVec.toNat_add _ _
  exact ⟨_, _, exec_addReg dr sr1 sr2 s, hsum, s.writeResult_produces dr _⟩

/-- Settles O4: the result write of the bitwise AND. -/
theorem andRegisterForm : Obligations.AndRegisterForm := by
  refine ⟨fun _ hop hmode => decode_of_and_register_mode hop hmode, fun dr sr1 sr2 s => ?_⟩
  have hbits : ∀ i, (s.reg sr1 &&& s.reg sr2).getLsbD i = ((s.reg sr1).getLsbD i && (s.reg sr2).getLsbD i) :=
    fun _ => BitVec.getLsbD_and
  exact ⟨_, _, exec_andReg dr sr1 sr2 s, hbits, s.writeResult_produces dr _⟩

/-- Settles O6: the result write of the complement, which is the subtraction from 0xFFFF. -/
theorem notComplementsSource : Obligations.NotComplementsSource := by
  refine ⟨fun _ hop => decode_of_not hop, fun dr sr s => ?_⟩
  have hcomplement : (~~~ s.reg sr).toNat = 65535 - (s.reg sr).toNat := BitVec.toNat_not
  exact ⟨_, _, exec_not dr sr s, hcomplement, s.writeResult_produces dr _⟩

end Sys2Proof.Proofs
end

section
/-! JMP and JSRR, the two jumps to a base register (spec 41_control.md R132, R135): the Words that decode to each, the meaning
of each as one write of PC, and the statements. -/

namespace Sys2Proof.Proofs

open Sys2Proof.Machine

/-! ### The decoder -/

theorem decode_of_jmp {w : Word} (hop : slice w 15 12 = opcodeBits .jmp) : decode w = .jmp (regAt w 8 6) := by
  simp [decode, hop]

theorem decode_of_jsr_register_mode {w : Word} (hop : slice w 15 12 = opcodeBits .jsr) (hmode : flagBit w 11 11 = false) :
    decode w = .jsrr (regAt w 8 6) := by
  simp [decode, hop, hmode]

/-! ### The meanings: each writes the base register's value to PC, and no link is saved (41_control.md R134) -/

theorem exec_jmp (base : Reg) (s : State) : exec (.jmp base) s = .next (s.setPc (s.reg base)) := rfl

theorem exec_jsrr (base : Reg) (s : State) : exec (.jsrr base) s = .next (s.setPc (s.reg base)) := rfl

/-! ### The statements -/

/-- Settles O10: one write of PC, which leaves everything else. -/
theorem jumpGoesToBaseRegister : Obligations.JumpGoesToBaseRegister :=
  ⟨fun _ hop => decode_of_jmp hop, fun base s => ⟨_, exec_jmp base s, s.setPc_jumps _⟩⟩

/-- Settles O12: both instructions are the same write of PC, since JSRR saves no link. -/
theorem jsrrBehavesAsJmp : Obligations.JsrrBehavesAsJmp := by
  refine ⟨fun _ hop hmode => decode_of_jsr_register_mode hop hmode, fun base s => ⟨?same, ?jumps⟩⟩
  case same => exact (exec_jsrr base s).trans (exec_jmp base s).symm
  case jumps => exact ⟨_, exec_jsrr base s, s.setPc_jumps _⟩

end Sys2Proof.Proofs
end

section
/-! RTI and RES, the two reserved opcodes (spec 43_trap_system.md R190, R191): the Words that decode to each, the meaning of
each as one taking of the exception, the stop after it, and the statements. -/

namespace Sys2Proof.Proofs

open Sys2Proof.Machine

/-! ### The decoder: ir[11:0] is not looked at -/

theorem decode_of_rti {w : Word} (hop : slice w 15 12 = opcodeBits .rti) : decode w = .rti := by
  simp [decode, hop]

theorem decode_of_res {w : Word} (hop : slice w 15 12 = opcodeBits .res) : decode w = .res := by
  simp [decode, hop]

/-! ### The meanings: each raises the exception with its own opcode -/

theorem exec_rti (s : State) : exec .rti s = .next (s.raiseDecodeFailure .rti) := rfl

theorem exec_res (s : State) : exec .res s = .next (s.raiseDecodeFailure .res) := rfl

/-! ### Taking the exception (60_exceptions.md R211) -/

/-- The latched state as one record update: PC and FAULT are all it changes. -/
theorem raiseDecodeFailure_eq (s : State) (op : Opcode) :
    s.raiseDecodeFailure op = { s with pc := s.pc + 1#16, fault := some ⟨opcodeBits op, s.pc⟩ } := rfl

/-- A latched FAULT ends the run, whatever RUN holds (10_state.md R39). -/
theorem step_ne_next_of_fault {s : State} {record : DecodeFailure} (hfault : s.fault = some record) (u : State) :
    step s ≠ .next u := by
  intro hstep
  obtain ⟨⟨_, hnone⟩, _⟩ := step_next_cases hstep
  rw [hfault] at hnone
  cases hnone

theorem step_raiseDecodeFailure_ne_next (s : State) (op : Opcode) (u : State) :
    step (s.raiseDecodeFailure op) ≠ .next u :=
  step_ne_next_of_fault (s.raiseDecodeFailure_fault op) u

/-! ### The statements -/

/-- Settles O33: the exception is taken with RTI's opcode, and a Faulted core has no step. -/
theorem rtiRaisesDecodeFailure : Obligations.RtiRaisesDecodeFailure :=
  ⟨fun _ hop => decode_of_rti hop, fun s =>
    ⟨_, exec_rti s, raiseDecodeFailure_eq s .rti, step_raiseDecodeFailure_ne_next s .rti⟩⟩

/-- Settles O34: the exception is taken with RES's opcode, and a Faulted core has no step. -/
theorem resRaisesDecodeFailure : Obligations.ResRaisesDecodeFailure :=
  ⟨fun _ hop => decode_of_res hop, fun s =>
    ⟨_, exec_res s, raiseDecodeFailure_eq s .res, step_raiseDecodeFailure_ne_next s .res⟩⟩

end Sys2Proof.Proofs
end

section
/-! TRAP OUT (spec 43_trap_system.md R183): the Words that decode to it, its meaning as one console output, and the statement. -/

namespace Sys2Proof.Proofs

open Sys2Proof.Machine

/-! ### The decoder -/

/-- Comparing a service's vector with the six finds that service (43_trap_system.md R180, R181). -/
@[simp] theorem serviceOfVector_serviceVector (service : TrapService) :
    serviceOfVector (serviceVector service) = some service := by
  cases service <;> rfl

theorem decode_of_trap {w : Word} (hop : slice w 15 12 = opcodeBits .trap) : decode w = decodeTrap (slice w 7 0) := by
  simp [decode, hop]

theorem decodeTrap_out : decodeTrap (serviceVector .out) = .trapOut := by
  simp [decodeTrap]

/-! ### The meaning -/

theorem exec_trapOut (s : State) :
    exec .trapOut s = .next (s.consolePut [slice (s.reg 0) 7 0]).advance := rfl

/-- The low byte of a Word as a number (20_memory.md R51). -/
theorem slice_low_byte_toNat (v : Word) : (slice v 7 0).toNat = v.toNat % 256 := by
  simp [slice]

/-! ### The statement -/

/-- Settles O26: one console output of R0's low byte, then the fetch increment. -/
theorem outWritesLowByte : Obligations.OutWritesLowByte := by
  refine ⟨fun w hop hvector => ?decodes, fun s => ?outputs⟩
  case decodes => rw [decode_of_trap hop, hvector, decodeTrap_out]
  case outputs => exact ⟨_, _, exec_trapOut s, slice_low_byte_toNat (s.reg 0), s.consolePut_advance_outputs _⟩

end Sys2Proof.Proofs
end

section
/-! The codec as an algebra (spec 00_scope.md R6, 30_encoding.md R81, R82): what a slice of an assembled Word is, and what a
Word's own fields rebuild. The encoder and the decoder meet only through these rules. -/

namespace Sys2Proof.Proofs

/-! ### Slices -/

/-- Bit `i` of a slice is bit `lo + i` of the Word. -/
theorem getLsbD_slice (w : Word) (hi lo i : Nat) :
    (slice w hi lo).getLsbD i = (decide (i < hi - lo + 1) && w.getLsbD (lo + i)) :=
  BitVec.getLsbD_extractLsb

/-- The value of a slice (00_scope.md R6). -/
theorem slice_toNat (w : Word) (hi lo : Nat) :
    (slice w hi lo).toNat = (w.toNat / 2 ^ lo) % 2 ^ (hi - lo + 1) := by
  simp [slice, BitVec.extractLsb_toNat, Nat.shiftRight_eq_div_pow]

@[simp] theorem slice_or (v w : Word) (hi lo : Nat) : slice (v ||| w) hi lo = slice v hi lo ||| slice w hi lo := by
  apply BitVec.eq_of_getLsbD_eq
  intro i _
  simp only [getLsbD_slice, BitVec.getLsbD_or, Bool.and_or_distrib_left]

theorem slice_and (v w : Word) (hi lo : Nat) : slice (v &&& w) hi lo = slice v hi lo &&& slice w hi lo := by
  apply BitVec.eq_of_getLsbD_eq
  intro i hlt
  simp [getLsbD_slice, BitVec.getLsbD_and, -BitVec.getLsbD_eq_getElem, hlt]

/-- Words that agree under a mask agree in every field the mask covers. -/
theorem slice_eq_of_masked {v w mask : Word} (hagree : v &&& mask = w &&& mask) (hi lo : Nat)
    (hcover : slice mask hi lo = BitVec.allOnes _) : slice w hi lo = slice v hi lo := by
  have hslice : slice (v &&& mask) hi lo = slice (w &&& mask) hi lo := congrArg (slice · hi lo) hagree
  rw [slice_and, slice_and, hcover, BitVec.and_allOnes, BitVec.and_allOnes] at hslice
  exact hslice.symm

/-! ### Placed fields -/

theorem getLsbD_place {n : Nat} (v : BitVec n) (lo i : Nat) :
    (place v lo).getLsbD i = (decide (i < 16) && decide (lo ≤ i) && v.getLsbD (i - lo)) := by
  simp only [place, BitVec.getLsbD_shiftLeft, BitVec.getLsbD_setWidth]
  by_cases hi : i < 16
  · by_cases hlo : lo ≤ i <;> simp [hi, hlo, show i - lo < 16 by omega]
  · simp [hi]

/-- A placed field is read back from its place. -/
@[simp] theorem slice_place_same {n : Nat} (v : BitVec n) {hi lo : Nat} (hwidth : hi - lo + 1 = n) (hfits : lo + n ≤ 16) :
    slice (place v lo) hi lo = v.cast hwidth.symm := by
  apply BitVec.eq_of_getLsbD_eq
  intro i hlt
  simp only [getLsbD_slice, getLsbD_place, BitVec.getLsbD_cast]
  simp [-BitVec.getLsbD_eq_getElem, hlt, show lo + i < 16 by omega]

/-- A field placed elsewhere reads as zero. -/
@[simp] theorem slice_place_apart {n : Nat} (v : BitVec n) {pos hi lo : Nat} (hle : lo ≤ hi)
    (hapart : hi < pos ∨ pos + n ≤ lo) : slice (place v pos) hi lo = 0#_ := by
  apply BitVec.eq_of_getLsbD_eq
  intro i hlt
  simp only [getLsbD_slice, getLsbD_place, BitVec.getLsbD_zero]
  rcases hapart with habove | hbelow
  · simp [show ¬ pos ≤ lo + i by omega]
  · simp [BitVec.getLsbD_of_ge v (lo + i - pos) (by omega)]

/-- A Word's own field, put back in its place, is the Word under the field's mask. -/
theorem place_slice (w : Word) (hi lo : Nat) :
    place (slice w hi lo) lo = w &&& place (BitVec.allOnes (hi - lo + 1)) lo := by
  apply BitVec.eq_of_getLsbD_eq
  intro i hlt
  simp only [getLsbD_place, getLsbD_slice, BitVec.getLsbD_and, BitVec.getLsbD_allOnes]
  by_cases hlo : lo ≤ i
  · simp [-BitVec.getLsbD_eq_getElem, hlo, hlt, show lo + (i - lo) = i by omega, Bool.and_comm]
  · simp [hlo]

/-! ### Register fields and mode bits -/

theorem placeReg_regAt (w : Word) (hi lo : Nat) (h : hi - lo + 1 = 3) :
    placeReg (regAt w hi lo h) lo = place (slice w hi lo) lo := by
  simp only [placeReg, regAt, place]
  congr 1
  apply BitVec.eq_of_toNat_eq
  simp

theorem regAt_of_slice {w : Word} {r : Reg} {hi lo : Nat} (h : hi - lo + 1 = 3)
    (hslice : slice w hi lo = (BitVec.ofFin r : BitVec 3).cast h.symm) : regAt w hi lo h = r := by
  rw [regAt, hslice]
  simp

theorem flagBit_eq_of_masked {v w mask : Word} (hagree : v &&& mask = w &&& mask) (b : Nat)
    (hcover : slice mask b b = BitVec.allOnes _) : flagBit w b b = flagBit v b b := by
  rw [flagBit, flagBit, slice_eq_of_masked hagree b b hcover]

/-- The flag of one bit is that bit (00_scope.md R7). -/
theorem flagBit_eq_getLsbD (w : Word) (b : Nat) : flagBit w b b = w.getLsbD b := by
  have hvalue : (slice w b b).toNat = w.toNat / 2 ^ b % 2 := by simpa using slice_toNat w b b
  have hzero : slice w b b = 0 ↔ w.toNat / 2 ^ b % 2 = 0 := by
    rw [← hvalue, ← BitVec.toNat_inj]
    simp
  rw [BitVec.getLsbD, Nat.testBit_eq_decide_div_mod_eq, Bool.eq_iff_iff]
  simp only [flagBit, bne_iff_ne, ne_eq, hzero, decide_eq_true_eq]
  omega

/-- A mode bit, put back in its place, is the Word under that bit (30_encoding.md R83). -/
theorem place_flagBit (w : Word) (b : Nat) :
    place (BitVec.ofBool (flagBit w b b)) b = w &&& place 1#1 b := by
  apply BitVec.eq_of_getLsbD_eq
  intro i hlt
  simp only [getLsbD_place, BitVec.getLsbD_and, flagBit_eq_getLsbD, BitVec.getLsbD_ofBool, BitVec.getLsbD_one]
  by_cases hib : i = b
  · subst hib
    simp [-BitVec.getLsbD_eq_getElem, hlt]
  · by_cases hle : b ≤ i
    · simp [show i - b ≠ 0 by omega]
    · simp [hle]

end Sys2Proof.Proofs
end

section
/-! The formats of spec 30_encoding.md R81, one rule each: a Word agrees with an assembled one in the bits its handler extracts
exactly when it has the opcode, the mode bit and the fields that were assembled. -/

namespace Sys2Proof.Proofs

/-! ### What a format's places hold, read from the Word -/

theorem placeOp_of_slice {op : Opcode} {w : Word} (hop : slice w 15 12 = opcodeBits op) :
    placeOp op = place (slice w 15 12) 12 := by
  rw [placeOp, hop]

theorem place_of_mode_set {w : Word} {b : Nat} (hmode : flagBit w b b = true) : place 1#1 b = w &&& place 1#1 b := by
  have hbit := place_flagBit w b
  rwa [hmode] at hbit

/-- A mode bit that is 0 may be added to a Word assembled without it. -/
theorem or_mode_clear {w : Word} {b : Nat} (hmode : flagBit w b b = false) (v : Word) :
    v ||| (w &&& place 1#1 b) = v := by
  have hbit := place_flagBit w b
  rw [hmode] at hbit
  have hzero : place (BitVec.ofBool false) b = 0#16 := by simp [place]
  rw [← hbit, hzero, BitVec.or_zero]

/-! ### One rule per format -/

theorem encodeM9_agrees_iff {op : Opcode} {r : Reg} {off : BitVec 9} {w : Word} :
    encodeM9 op r off &&& 0xFFFF#16 = w &&& 0xFFFF#16 ↔
      slice w 15 12 = opcodeBits op ∧ regAt w 11 9 = r ∧ slice w 8 0 = off := by
  refine ⟨fun h => ⟨?op, regAt_of_slice _ ?r, ?off⟩, ?agrees⟩
  case op => simpa [encodeM9, placeOp, placeReg] using slice_eq_of_masked h 15 12 (by decide)
  case r => simpa [encodeM9, placeOp, placeReg] using slice_eq_of_masked h 11 9 (by decide)
  case off => simpa [encodeM9, placeOp, placeReg] using slice_eq_of_masked h 8 0 (by decide)
  case agrees =>
    rintro ⟨hop, rfl, rfl⟩
    simp only [encodeM9, placeOp_of_slice hop, placeReg_regAt, place_slice, ← BitVec.and_or_distrib_left]
    exact BitVec.and_assoc _ _ _

theorem encodeM6_agrees_iff {op : Opcode} {r base : Reg} {off : BitVec 6} {w : Word} :
    encodeM6 op r base off &&& 0xFFFF#16 = w &&& 0xFFFF#16 ↔
      slice w 15 12 = opcodeBits op ∧ regAt w 11 9 = r ∧ regAt w 8 6 = base ∧ slice w 5 0 = off := by
  refine ⟨fun h => ⟨?op, regAt_of_slice _ ?r, regAt_of_slice _ ?base, ?off⟩, ?agrees⟩
  case op => simpa [encodeM6, placeOp, placeReg] using slice_eq_of_masked h 15 12 (by decide)
  case r => simpa [encodeM6, placeOp, placeReg] using slice_eq_of_masked h 11 9 (by decide)
  case base => simpa [encodeM6, placeOp, placeReg] using slice_eq_of_masked h 8 6 (by decide)
  case off => simpa [encodeM6, placeOp, placeReg] using slice_eq_of_masked h 5 0 (by decide)
  case agrees =>
    rintro ⟨hop, rfl, rfl, rfl⟩
    simp only [encodeM6, placeOp_of_slice hop, placeReg_regAt, place_slice, ← BitVec.and_or_distrib_left]
    exact BitVec.and_assoc _ _ _

theorem encodeRR_agrees_iff {op : Opcode} {dr sr1 sr2 : Reg} {w : Word} :
    encodeRR op dr sr1 sr2 &&& 0xFFE7#16 = w &&& 0xFFE7#16 ↔
      slice w 15 12 = opcodeBits op ∧ flagBit w 5 5 = false ∧ regAt w 11 9 = dr ∧ regAt w 8 6 = sr1 ∧
        regAt w 2 0 = sr2 := by
  refine ⟨fun h => ⟨?op, ?mode, regAt_of_slice _ ?dr, regAt_of_slice _ ?sr1, regAt_of_slice _ ?sr2⟩, ?agrees⟩
  case op => simpa [encodeRR, placeOp, placeReg] using slice_eq_of_masked h 15 12 (by decide)
  case mode => exact (flagBit_eq_of_masked h 5 (by decide)).trans (by simp [flagBit, encodeRR, placeOp, placeReg])
  case dr => simpa [encodeRR, placeOp, placeReg] using slice_eq_of_masked h 11 9 (by decide)
  case sr1 => simpa [encodeRR, placeOp, placeReg] using slice_eq_of_masked h 8 6 (by decide)
  case sr2 => simpa [encodeRR, placeOp, placeReg] using slice_eq_of_masked h 2 0 (by decide)
  case agrees =>
    rintro ⟨hop, hmode, rfl, rfl, rfl⟩
    rw [← or_mode_clear hmode (encodeRR _ _ _ _)]
    simp only [encodeRR, placeOp_of_slice hop, placeReg_regAt, place_slice, ← BitVec.and_or_distrib_left]
    exact BitVec.and_assoc _ _ _

theorem encodeRI_agrees_iff {op : Opcode} {dr sr1 : Reg} {imm : BitVec 5} {w : Word} :
    encodeRI op dr sr1 imm &&& 0xFFFF#16 = w &&& 0xFFFF#16 ↔
      slice w 15 12 = opcodeBits op ∧ flagBit w 5 5 = true ∧ regAt w 11 9 = dr ∧ regAt w 8 6 = sr1 ∧
        slice w 4 0 = imm := by
  refine ⟨fun h => ⟨?op, ?mode, regAt_of_slice _ ?dr, regAt_of_slice _ ?sr1, ?imm⟩, ?agrees⟩
  case op => simpa [encodeRI, placeOp, placeReg] using slice_eq_of_masked h 15 12 (by decide)
  case mode => exact (flagBit_eq_of_masked h 5 (by decide)).trans (by simp [flagBit, encodeRI, placeOp, placeReg])
  case dr => simpa [encodeRI, placeOp, placeReg] using slice_eq_of_masked h 11 9 (by decide)
  case sr1 => simpa [encodeRI, placeOp, placeReg] using slice_eq_of_masked h 8 6 (by decide)
  case imm => simpa [encodeRI, placeOp, placeReg] using slice_eq_of_masked h 4 0 (by decide)
  case agrees =>
    rintro ⟨hop, hmode, rfl, rfl, rfl⟩
    rw [encodeRI, place_of_mode_set hmode]
    simp only [placeOp_of_slice hop, placeReg_regAt, place_slice, ← BitVec.and_or_distrib_left]
    exact BitVec.and_assoc _ _ _

/-- BR: the mask takes the place of a register field. -/
theorem encode_br_agrees_iff {mask : BitVec 3} {off : BitVec 9} {w : Word} :
    encode (.br mask off) &&& 0xFFFF#16 = w &&& 0xFFFF#16 ↔
      slice w 15 12 = opcodeBits .br ∧ slice w 11 9 = mask ∧ slice w 8 0 = off := by
  refine ⟨fun h => ⟨?op, ?mask, ?off⟩, ?agrees⟩
  case op => simpa [encode, placeOp] using slice_eq_of_masked h 15 12 (by decide)
  case mask => simpa [encode, placeOp] using slice_eq_of_masked h 11 9 (by decide)
  case off => simpa [encode, placeOp] using slice_eq_of_masked h 8 0 (by decide)
  case agrees =>
    rintro ⟨hop, rfl, rfl⟩
    simp only [encode, placeOp_of_slice hop, place_slice, ← BitVec.and_or_distrib_left]
    exact BitVec.and_assoc _ _ _

/-- Format JO: bit 11 is the mode bit. -/
theorem encode_jsr_agrees_iff {off : BitVec 11} {w : Word} :
    encode (.jsr off) &&& 0xFFFF#16 = w &&& 0xFFFF#16 ↔
      slice w 15 12 = opcodeBits .jsr ∧ flagBit w 11 11 = true ∧ slice w 10 0 = off := by
  refine ⟨fun h => ⟨?op, ?mode, ?off⟩, ?agrees⟩
  case op => simpa [encode, placeOp] using slice_eq_of_masked h 15 12 (by decide)
  case mode => exact (flagBit_eq_of_masked h 11 (by decide)).trans (by simp [flagBit, encode, placeOp])
  case off => simpa [encode, placeOp] using slice_eq_of_masked h 10 0 (by decide)
  case agrees =>
    rintro ⟨hop, hmode, rfl⟩
    rw [encode, place_of_mode_set hmode]
    simp only [placeOp_of_slice hop, place_slice, ← BitVec.and_or_distrib_left]
    exact BitVec.and_assoc _ _ _

/-- Format JR under JSRR's opcode: bit 11 is the mode bit. -/
theorem encode_jsrr_agrees_iff {base : Reg} {w : Word} :
    encode (.jsrr base) &&& 0xF9C0#16 = w &&& 0xF9C0#16 ↔
      slice w 15 12 = opcodeBits .jsr ∧ flagBit w 11 11 = false ∧ regAt w 8 6 = base := by
  refine ⟨fun h => ⟨?op, ?mode, regAt_of_slice _ ?base⟩, ?agrees⟩
  case op => simpa [encode, encodeJR, placeOp, placeReg] using slice_eq_of_masked h 15 12 (by decide)
  case mode => exact (flagBit_eq_of_masked h 11 (by decide)).trans (by simp [flagBit, encode, encodeJR, placeOp, placeReg])
  case base => simpa [encode, encodeJR, placeOp, placeReg] using slice_eq_of_masked h 8 6 (by decide)
  case agrees =>
    rintro ⟨hop, hmode, rfl⟩
    rw [← or_mode_clear hmode (encode _)]
    simp only [encode, encodeJR, placeOp_of_slice hop, placeReg_regAt, place_slice, ← BitVec.and_or_distrib_left]
    exact BitVec.and_assoc _ _ _

/-- Format JR under JMP's opcode: bit 11 is ignored. -/
theorem encode_jmp_agrees_iff {base : Reg} {w : Word} :
    encode (.jmp base) &&& 0xF1C0#16 = w &&& 0xF1C0#16 ↔
      slice w 15 12 = opcodeBits .jmp ∧ regAt w 8 6 = base := by
  refine ⟨fun h => ⟨?op, regAt_of_slice _ ?base⟩, ?agrees⟩
  case op => simpa [encode, encodeJR, placeOp, placeReg] using slice_eq_of_masked h 15 12 (by decide)
  case base => simpa [encode, encodeJR, placeOp, placeReg] using slice_eq_of_masked h 8 6 (by decide)
  case agrees =>
    rintro ⟨hop, rfl⟩
    simp only [encode, encodeJR, placeOp_of_slice hop, placeReg_regAt, place_slice, ← BitVec.and_or_distrib_left]
    exact BitVec.and_assoc _ _ _

/-- NOT: ir[5:0] is assembled as ones and ignored. -/
theorem encode_not_agrees_iff {dr sr : Reg} {w : Word} :
    encode (.not dr sr) &&& 0xFFC0#16 = w &&& 0xFFC0#16 ↔
      slice w 15 12 = opcodeBits .not ∧ regAt w 11 9 = dr ∧ regAt w 8 6 = sr := by
  refine ⟨fun h => ⟨?op, regAt_of_slice _ ?dr, regAt_of_slice _ ?sr⟩, ?agrees⟩
  case op => simpa [encode, placeOp, placeReg] using slice_eq_of_masked h 15 12 (by decide)
  case dr => simpa [encode, placeOp, placeReg] using slice_eq_of_masked h 11 9 (by decide)
  case sr => simpa [encode, placeOp, placeReg] using slice_eq_of_masked h 8 6 (by decide)
  case agrees =>
    rintro ⟨hop, rfl, rfl⟩
    rw [encode, BitVec.and_or_distrib_right, show place 0b111111#6 0 &&& 0xFFC0#16 = 0#16 by decide, BitVec.or_zero]
    simp only [placeOp_of_slice hop, placeReg_regAt, place_slice, ← BitVec.and_or_distrib_left]
    exact BitVec.and_assoc _ _ _

theorem encodeTV_agrees_iff {v : BitVec 8} {w : Word} :
    encodeTV v &&& 0xF0FF#16 = w &&& 0xF0FF#16 ↔ slice w 15 12 = opcodeBits .trap ∧ slice w 7 0 = v := by
  refine ⟨fun h => ⟨?op, ?v⟩, ?agrees⟩
  case op => simpa [encodeTV, placeOp] using slice_eq_of_masked h 15 12 (by decide)
  case v => simpa [encodeTV, placeOp] using slice_eq_of_masked h 7 0 (by decide)
  case agrees =>
    rintro ⟨hop, rfl⟩
    simp only [encodeTV, placeOp_of_slice hop, place_slice, ← BitVec.and_or_distrib_left]
    exact BitVec.and_assoc _ _ _

/-- The reserved opcodes: every bit below the opcode is ignored. -/
theorem placeOp_agrees_iff {op : Opcode} {w : Word} :
    placeOp op &&& 0xF000#16 = w &&& 0xF000#16 ↔ slice w 15 12 = opcodeBits op := by
  refine ⟨fun h => ?op, ?agrees⟩
  case op => simpa [placeOp] using slice_eq_of_masked h 15 12 (by decide)
  case agrees =>
    intro hop
    rw [placeOp_of_slice hop, place_slice]
    exact BitVec.and_assoc _ _ _

end Sys2Proof.Proofs
end

section
/-! Decoder and encoder together (spec 30_encoding.md sections 3 to 7): the Words that decode to each instruction, the one rule
that ties the two functions, and the statements about encoding. -/

namespace Sys2Proof.Proofs

open Sys2Proof.Machine

/-! ### The Words that decode to each instruction -/

theorem opcodeBits_opcodeOfBits (b : BitVec 4) : opcodeBits (opcodeOfBits b) = b := by
  revert b
  decide

/-- Every Word has the opcode of one of the sixteen handlers (30_encoding.md R89). -/
theorem exists_opcode (w : Word) : ∃ op, slice w 15 12 = opcodeBits op :=
  ⟨_, (opcodeBits_opcodeOfBits _).symm⟩

theorem decode_of_br {w : Word} (hop : slice w 15 12 = opcodeBits .br) :
    decode w = .br (slice w 11 9) (slice w 8 0) := by
  simp [decode, hop]

theorem decode_of_add_immediate_mode {w : Word} (hop : slice w 15 12 = opcodeBits .add)
    (hmode : flagBit w 5 5 = true) : decode w = .addImm (regAt w 11 9) (regAt w 8 6) (slice w 4 0) := by
  simp [decode, hop, hmode]

theorem decode_of_and_immediate_mode {w : Word} (hop : slice w 15 12 = opcodeBits .and)
    (hmode : flagBit w 5 5 = true) : decode w = .andImm (regAt w 11 9) (regAt w 8 6) (slice w 4 0) := by
  simp [decode, hop, hmode]

theorem decode_of_jsr_relative_mode {w : Word} (hop : slice w 15 12 = opcodeBits .jsr)
    (hmode : flagBit w 11 11 = true) : decode w = .jsr (slice w 10 0) := by
  simp [decode, hop, hmode]

theorem decode_of_ld {w : Word} (hop : slice w 15 12 = opcodeBits .ld) :
    decode w = .ld (regAt w 11 9) (slice w 8 0) := by
  simp [decode, hop]

theorem decode_of_st {w : Word} (hop : slice w 15 12 = opcodeBits .st) :
    decode w = .st (regAt w 11 9) (slice w 8 0) := by
  simp [decode, hop]

theorem decode_of_ldi {w : Word} (hop : slice w 15 12 = opcodeBits .ldi) :
    decode w = .ldi (regAt w 11 9) (slice w 8 0) := by
  simp [decode, hop]

theorem decode_of_sti {w : Word} (hop : slice w 15 12 = opcodeBits .sti) :
    decode w = .sti (regAt w 11 9) (slice w 8 0) := by
  simp [decode, hop]

theorem decode_of_lea {w : Word} (hop : slice w 15 12 = opcodeBits .lea) :
    decode w = .lea (regAt w 11 9) (slice w 8 0) := by
  simp [decode, hop]

theorem decode_of_ldr {w : Word} (hop : slice w 15 12 = opcodeBits .ldr) :
    decode w = .ldr (regAt w 11 9) (regAt w 8 6) (slice w 5 0) := by
  simp [decode, hop]

theorem decode_of_str {w : Word} (hop : slice w 15 12 = opcodeBits .str) :
    decode w = .str (regAt w 11 9) (regAt w 8 6) (slice w 5 0) := by
  simp [decode, hop]

/-! ### The rows of TRAP -/

/-- The row a service has of its own (30_encoding.md R102). -/
def serviceInstr : TrapService → Instr
  | .getc => .trapGetc
  | .out => .trapOut
  | .puts => .trapPuts
  | .inp => .trapIn
  | .putsp => .trapPutsp
  | .halt => .trapHalt

theorem decodeTrap_serviceVector (service : TrapService) : decodeTrap (serviceVector service) = serviceInstr service := by
  cases service <;> simp [decodeTrap, serviceInstr]

theorem decodeTrap_of_no_service {v : BitVec 8} (hv : serviceOfVector v = none) : decodeTrap v = .trap v := by
  simp [decodeTrap, hv]

/-- A service is found only by its own vector. -/
theorem eq_serviceVector_of_some {v : BitVec 8} {service : TrapService} (hv : serviceOfVector v = some service) :
    v = serviceVector service := by
  unfold serviceOfVector at hv
  grind

/-- A vector is a service's, and decodes to the service's row, or it is no service's, and decodes to the generic row. -/
theorem decodeTrap_cases (v : BitVec 8) :
    (∃ service, v = serviceVector service ∧ decodeTrap v = serviceInstr service) ∨
      (serviceOfVector v = none ∧ decodeTrap v = .trap v) := by
  cases hv : serviceOfVector v with
  | none => exact .inr ⟨rfl, decodeTrap_of_no_service hv⟩
  | some service =>
    obtain rfl := eq_serviceVector_of_some hv
    exact .inl ⟨service, rfl, decodeTrap_serviceVector service⟩

theorem encode_serviceInstr (service : TrapService) : encode (serviceInstr service) = encodeTV (serviceVector service) := by
  cases service <;> rfl

theorem usedBits_serviceInstr (service : TrapService) : usedBits (serviceInstr service) = 0xF0FF#16 := by
  cases service <;> rfl

theorem wellFormed_serviceInstr (service : TrapService) : WellFormed (serviceInstr service) = true := by
  cases service <;> rfl

theorem encode_decodeTrap (v : BitVec 8) : encode (decodeTrap v) = encodeTV v := by
  rcases decodeTrap_cases v with ⟨service, rfl, hrow⟩ | ⟨_, hrow⟩ <;> rw [hrow]
  · exact encode_serviceInstr service
  · rfl

theorem usedBits_decodeTrap (v : BitVec 8) : usedBits (decodeTrap v) = 0xF0FF#16 := by
  rcases decodeTrap_cases v with ⟨service, rfl, hrow⟩ | ⟨_, hrow⟩ <;> rw [hrow]
  · exact usedBits_serviceInstr service
  · rfl

theorem wellFormed_decodeTrap (v : BitVec 8) : WellFormed (decodeTrap v) = true := by
  rcases decodeTrap_cases v with ⟨service, rfl, hrow⟩ | ⟨hnone, hrow⟩ <;> rw [hrow]
  · exact wellFormed_serviceInstr service
  · rw [WellFormed, hnone, Option.isNone_none]

/-! ### From Words to instructions and back -/

/-- A Word decodes to a well-formed instruction whose encoding agrees with it in every bit that is not ignored
(30_encoding.md R86, R88). -/
theorem encode_decode_agrees (w : Word) :
    WellFormed (decode w) = true ∧ encode (decode w) &&& usedBits (decode w) = w &&& usedBits (decode w) := by
  obtain ⟨op, hop⟩ := exists_opcode w
  cases op with
  | br => rw [decode_of_br hop]; exact ⟨rfl, encode_br_agrees_iff.2 ⟨hop, rfl, rfl⟩⟩
  | add =>
    cases hmode : flagBit w 5 5 with
    | false => rw [decode_of_add_register_mode hop hmode]; exact ⟨rfl, encodeRR_agrees_iff.2 ⟨hop, hmode, rfl, rfl, rfl⟩⟩
    | true => rw [decode_of_add_immediate_mode hop hmode]; exact ⟨rfl, encodeRI_agrees_iff.2 ⟨hop, hmode, rfl, rfl, rfl⟩⟩
  | ld => rw [decode_of_ld hop]; exact ⟨rfl, encodeM9_agrees_iff.2 ⟨hop, rfl, rfl⟩⟩
  | st => rw [decode_of_st hop]; exact ⟨rfl, encodeM9_agrees_iff.2 ⟨hop, rfl, rfl⟩⟩
  | jsr =>
    cases hmode : flagBit w 11 11 with
    | false => rw [decode_of_jsr_register_mode hop hmode]; exact ⟨rfl, encode_jsrr_agrees_iff.2 ⟨hop, hmode, rfl⟩⟩
    | true => rw [decode_of_jsr_relative_mode hop hmode]; exact ⟨rfl, encode_jsr_agrees_iff.2 ⟨hop, hmode, rfl⟩⟩
  | and =>
    cases hmode : flagBit w 5 5 with
    | false => rw [decode_of_and_register_mode hop hmode]; exact ⟨rfl, encodeRR_agrees_iff.2 ⟨hop, hmode, rfl, rfl, rfl⟩⟩
    | true => rw [decode_of_and_immediate_mode hop hmode]; exact ⟨rfl, encodeRI_agrees_iff.2 ⟨hop, hmode, rfl, rfl, rfl⟩⟩
  | ldr => rw [decode_of_ldr hop]; exact ⟨rfl, encodeM6_agrees_iff.2 ⟨hop, rfl, rfl, rfl⟩⟩
  | str => rw [decode_of_str hop]; exact ⟨rfl, encodeM6_agrees_iff.2 ⟨hop, rfl, rfl, rfl⟩⟩
  | rti => rw [decode_of_rti hop]; exact ⟨rfl, placeOp_agrees_iff.2 hop⟩
  | not => rw [decode_of_not hop]; exact ⟨rfl, encode_not_agrees_iff.2 ⟨hop, rfl, rfl⟩⟩
  | ldi => rw [decode_of_ldi hop]; exact ⟨rfl, encodeM9_agrees_iff.2 ⟨hop, rfl, rfl⟩⟩
  | sti => rw [decode_of_sti hop]; exact ⟨rfl, encodeM9_agrees_iff.2 ⟨hop, rfl, rfl⟩⟩
  | jmp => rw [decode_of_jmp hop]; exact ⟨rfl, encode_jmp_agrees_iff.2 ⟨hop, rfl⟩⟩
  | res => rw [decode_of_res hop]; exact ⟨rfl, placeOp_agrees_iff.2 hop⟩
  | lea => rw [decode_of_lea hop]; exact ⟨rfl, encodeM9_agrees_iff.2 ⟨hop, rfl, rfl⟩⟩
  | trap =>
    rw [decode_of_trap hop, encode_decodeTrap, usedBits_decodeTrap]
    exact ⟨wellFormed_decodeTrap _, encodeTV_agrees_iff.2 ⟨hop, rfl⟩⟩

theorem wellFormed_decode (w : Word) : WellFormed (decode w) = true := (encode_decode_agrees w).1

/-- A Word that agrees with a service's encoding decodes to the service's row. -/
theorem decode_eq_serviceInstr {service : TrapService} {w : Word}
    (h : encode (serviceInstr service) &&& 0xF0FF#16 = w &&& 0xF0FF#16) : decode w = serviceInstr service := by
  rw [encode_serviceInstr] at h
  obtain ⟨hop, hv⟩ := encodeTV_agrees_iff.1 h
  rw [decode_of_trap hop, hv, decodeTrap_serviceVector]

/-- A Word that agrees with a well-formed instruction's encoding in every bit that is not ignored decodes to that
instruction (30_encoding.md R86). -/
theorem decode_eq_of_agrees {i : Instr} (hwf : WellFormed i = true) {w : Word}
    (h : encode i &&& usedBits i = w &&& usedBits i) : decode w = i := by
  cases i with
  | br mask off => obtain ⟨hop, rfl, rfl⟩ := encode_br_agrees_iff.1 h; exact decode_of_br hop
  | addReg dr sr1 sr2 =>
    obtain ⟨hop, hmode, rfl, rfl, rfl⟩ := encodeRR_agrees_iff.1 h
    exact decode_of_add_register_mode hop hmode
  | addImm dr sr1 imm =>
    obtain ⟨hop, hmode, rfl, rfl, rfl⟩ := encodeRI_agrees_iff.1 h
    exact decode_of_add_immediate_mode hop hmode
  | ld dr off => obtain ⟨hop, rfl, rfl⟩ := encodeM9_agrees_iff.1 h; exact decode_of_ld hop
  | st sr off => obtain ⟨hop, rfl, rfl⟩ := encodeM9_agrees_iff.1 h; exact decode_of_st hop
  | jsr off => obtain ⟨hop, hmode, rfl⟩ := encode_jsr_agrees_iff.1 h; exact decode_of_jsr_relative_mode hop hmode
  | jsrr base => obtain ⟨hop, hmode, rfl⟩ := encode_jsrr_agrees_iff.1 h; exact decode_of_jsr_register_mode hop hmode
  | andReg dr sr1 sr2 =>
    obtain ⟨hop, hmode, rfl, rfl, rfl⟩ := encodeRR_agrees_iff.1 h
    exact decode_of_and_register_mode hop hmode
  | andImm dr sr1 imm =>
    obtain ⟨hop, hmode, rfl, rfl, rfl⟩ := encodeRI_agrees_iff.1 h
    exact decode_of_and_immediate_mode hop hmode
  | ldr dr base off => obtain ⟨hop, rfl, rfl, rfl⟩ := encodeM6_agrees_iff.1 h; exact decode_of_ldr hop
  | str sr base off => obtain ⟨hop, rfl, rfl, rfl⟩ := encodeM6_agrees_iff.1 h; exact decode_of_str hop
  | rti => exact decode_of_rti (placeOp_agrees_iff.1 h)
  | not dr sr => obtain ⟨hop, rfl, rfl⟩ := encode_not_agrees_iff.1 h; exact decode_of_not hop
  | ldi dr off => obtain ⟨hop, rfl, rfl⟩ := encodeM9_agrees_iff.1 h; exact decode_of_ldi hop
  | sti sr off => obtain ⟨hop, rfl, rfl⟩ := encodeM9_agrees_iff.1 h; exact decode_of_sti hop
  | jmp base => obtain ⟨hop, rfl⟩ := encode_jmp_agrees_iff.1 h; exact decode_of_jmp hop
  | res => exact decode_of_res (placeOp_agrees_iff.1 h)
  | lea dr off => obtain ⟨hop, rfl, rfl⟩ := encodeM9_agrees_iff.1 h; exact decode_of_lea hop
  | trap v =>
    obtain ⟨hop, rfl⟩ := encodeTV_agrees_iff.1 h
    rw [decode_of_trap hop]
    exact decodeTrap_of_no_service (Option.isNone_iff_eq_none.1 hwf)
  | trapGetc => exact decode_eq_serviceInstr (service := .getc) h
  | trapOut => exact decode_eq_serviceInstr (service := .out) h
  | trapPuts => exact decode_eq_serviceInstr (service := .puts) h
  | trapIn => exact decode_eq_serviceInstr (service := .inp) h
  | trapPutsp => exact decode_eq_serviceInstr (service := .putsp) h
  | trapHalt => exact decode_eq_serviceInstr (service := .halt) h

/-! ### The rows of the opcode table -/

/-- A Word in a row agrees with the row's pattern in every field its mask covers (30_encoding.md R102). -/
theorem slice_of_row {w mask pattern : Word} (hrow : w &&& mask = pattern) (hi lo : Nat)
    (hcover : slice mask hi lo = BitVec.allOnes _) : slice w hi lo = slice pattern hi lo := by
  rw [← hrow, slice_and, hcover, BitVec.and_allOnes]

theorem flagBit_of_row {w mask pattern : Word} (hrow : w &&& mask = pattern) (b : Nat)
    (hcover : slice mask b b = BitVec.allOnes _) : flagBit w b b = flagBit pattern b b := by
  rw [flagBit, flagBit, slice_of_row hrow b b hcover]

/-- The rows that fix the opcode only. -/
theorem opcode_of_row {op : Opcode} {w : Word} (hrow : w &&& 0xF000#16 = placeOp op) :
    slice w 15 12 = opcodeBits op := by
  have hslice := slice_of_row hrow 15 12 rfl
  simpa [placeOp] using hslice

/-- Every instruction's encoding selects its row: the facts of Laws/PerInstr.lean together. -/
theorem encode_in_row (i : Instr) : Laws.EncodesInItsRow.Statement i :=
  match i with
  | .br mask off => Laws.EncodesInItsRow.br mask off
  | .addReg dr sr1 sr2 => Laws.EncodesInItsRow.addReg dr sr1 sr2
  | .addImm dr sr1 imm => Laws.EncodesInItsRow.addImm dr sr1 imm
  | .ld dr off => Laws.EncodesInItsRow.ld dr off
  | .st sr off => Laws.EncodesInItsRow.st sr off
  | .jsr off => Laws.EncodesInItsRow.jsr off
  | .jsrr base => Laws.EncodesInItsRow.jsrr base
  | .andReg dr sr1 sr2 => Laws.EncodesInItsRow.andReg dr sr1 sr2
  | .andImm dr sr1 imm => Laws.EncodesInItsRow.andImm dr sr1 imm
  | .ldr dr base off => Laws.EncodesInItsRow.ldr dr base off
  | .str sr base off => Laws.EncodesInItsRow.str sr base off
  | .rti => Laws.EncodesInItsRow.rti
  | .not dr sr => Laws.EncodesInItsRow.not dr sr
  | .ldi dr off => Laws.EncodesInItsRow.ldi dr off
  | .sti sr off => Laws.EncodesInItsRow.sti sr off
  | .jmp base => Laws.EncodesInItsRow.jmp base
  | .res => Laws.EncodesInItsRow.res
  | .lea dr off => Laws.EncodesInItsRow.lea dr off
  | .trap v => Laws.EncodesInItsRow.trap v
  | .trapGetc => Laws.EncodesInItsRow.trapGetc
  | .trapOut => Laws.EncodesInItsRow.trapOut
  | .trapPuts => Laws.EncodesInItsRow.trapPuts
  | .trapIn => Laws.EncodesInItsRow.trapIn
  | .trapPutsp => Laws.EncodesInItsRow.trapPutsp
  | .trapHalt => Laws.EncodesInItsRow.trapHalt

/-- A row's mask covers no ignored bit. -/
theorem usedBits_and_mask (i : Instr) : usedBits i &&& (tableRow i).mask = (tableRow i).mask := by
  cases i <;> simp only [usedBits, tableRow] <;> decide

/-- A Word stands in the row of what it decodes to. -/
theorem decode_in_row (w : Word) : w &&& (tableRow (decode w)).mask = (tableRow (decode w)).pattern := by
  obtain ⟨-, hagrees⟩ := encode_decode_agrees w
  calc w &&& (tableRow (decode w)).mask
      = w &&& usedBits (decode w) &&& (tableRow (decode w)).mask := by rw [BitVec.and_assoc, usedBits_and_mask]
    _ = encode (decode w) &&& (tableRow (decode w)).mask := by rw [← hagrees, BitVec.and_assoc, usedBits_and_mask]
    _ = (tableRow (decode w)).pattern := encode_in_row (decode w)

/-- A service's row has no field, so a Word in it agrees with the service's encoding. -/
theorem row_of_service {service : TrapService} {w : Word}
    (h : w &&& (tableRow (serviceInstr service)).mask = (tableRow (serviceInstr service)).pattern) :
    tableRow (serviceInstr service) = tableRow (decode w) := by
  have hmask : (tableRow (serviceInstr service)).mask = 0xF0FF#16 := by cases service <;> rfl
  have hagrees := (encode_in_row (serviceInstr service)).trans h.symm
  rw [hmask] at hagrees
  exact congrArg tableRow (decode_eq_serviceInstr hagrees).symm

theorem row_of_decode {i j : Instr} {w : Word} (hdecode : decode w = j) (hrow : tableRow i = tableRow j) :
    tableRow i = tableRow (decode w) := hrow.trans (congrArg tableRow hdecode.symm)

/-- A row that a Word stands in is the decoded one, or the generic TRAP row, which the six services refine
(30_encoding.md R102). -/
theorem row_unique {i : Instr} {w : Word} (h : w &&& (tableRow i).mask = (tableRow i).pattern) :
    tableRow i = tableRow (decode w) ∨ tableRow i = ⟨0xF000#16, 0xF000#16⟩ := by
  cases i with
  | trap v => exact .inr rfl
  | br mask off => exact .inl (row_of_decode (decode_of_br (opcode_of_row h)) rfl)
  | ld dr off => exact .inl (row_of_decode (decode_of_ld (opcode_of_row h)) rfl)
  | st sr off => exact .inl (row_of_decode (decode_of_st (opcode_of_row h)) rfl)
  | ldr dr base off => exact .inl (row_of_decode (decode_of_ldr (opcode_of_row h)) rfl)
  | str sr base off => exact .inl (row_of_decode (decode_of_str (opcode_of_row h)) rfl)
  | rti => exact .inl (row_of_decode (decode_of_rti (opcode_of_row h)) rfl)
  | not dr sr => exact .inl (row_of_decode (decode_of_not (opcode_of_row h)) rfl)
  | ldi dr off => exact .inl (row_of_decode (decode_of_ldi (opcode_of_row h)) rfl)
  | sti sr off => exact .inl (row_of_decode (decode_of_sti (opcode_of_row h)) rfl)
  | jmp base => exact .inl (row_of_decode (decode_of_jmp (opcode_of_row h)) rfl)
  | res => exact .inl (row_of_decode (decode_of_res (opcode_of_row h)) rfl)
  | lea dr off => exact .inl (row_of_decode (decode_of_lea (opcode_of_row h)) rfl)
  | addReg dr sr1 sr2 =>
    have hrow : w &&& 0xF020#16 = 0x1000#16 := h
    exact .inl (row_of_decode (decode_of_add_register_mode (slice_of_row hrow 15 12 rfl) (flagBit_of_row hrow 5 rfl)) rfl)
  | addImm dr sr1 imm =>
    have hrow : w &&& 0xF020#16 = 0x1020#16 := h
    exact .inl (row_of_decode (decode_of_add_immediate_mode (slice_of_row hrow 15 12 rfl) (flagBit_of_row hrow 5 rfl)) rfl)
  | andReg dr sr1 sr2 =>
    have hrow : w &&& 0xF020#16 = 0x5000#16 := h
    exact .inl (row_of_decode (decode_of_and_register_mode (slice_of_row hrow 15 12 rfl) (flagBit_of_row hrow 5 rfl)) rfl)
  | andImm dr sr1 imm =>
    have hrow : w &&& 0xF020#16 = 0x5020#16 := h
    exact .inl (row_of_decode (decode_of_and_immediate_mode (slice_of_row hrow 15 12 rfl) (flagBit_of_row hrow 5 rfl)) rfl)
  | jsr off =>
    have hrow : w &&& 0xF800#16 = 0x4800#16 := h
    exact .inl (row_of_decode (decode_of_jsr_relative_mode (slice_of_row hrow 15 12 rfl) (flagBit_of_row hrow 11 rfl)) rfl)
  | jsrr base =>
    have hrow : w &&& 0xF800#16 = 0x4000#16 := h
    exact .inl (row_of_decode (decode_of_jsr_register_mode (slice_of_row hrow 15 12 rfl) (flagBit_of_row hrow 11 rfl)) rfl)
  | trapGetc => exact .inl (row_of_service (service := .getc) h)
  | trapOut => exact .inl (row_of_service (service := .out) h)
  | trapPuts => exact .inl (row_of_service (service := .puts) h)
  | trapIn => exact .inl (row_of_service (service := .inp) h)
  | trapPutsp => exact .inl (row_of_service (service := .putsp) h)
  | trapHalt => exact .inl (row_of_service (service := .halt) h)

/-! ### The statements -/

/-- Settles O49: an encoding agrees with itself in every bit. -/
theorem decodeOfEncodeIsTheInstruction : Obligations.DecodeOfEncodeIsTheInstruction :=
  fun _ hwf => decode_eq_of_agrees hwf rfl

/-- Settles O50. -/
theorem encodeOfDecodeKeepsUsedBits : Obligations.EncodeOfDecodeKeepsUsedBits :=
  encode_decode_agrees

/-- Settles O51: both Words agree with the encoding of what the first decodes to. -/
theorem ignoredBitsDoNotMatter : Obligations.IgnoredBitsDoNotMatter := by
  intro w w' hsame
  obtain ⟨hwf, hagrees⟩ := encode_decode_agrees w
  exact decode_eq_of_agrees hwf (hagrees.trans hsame)

/-- Settles O52. -/
theorem decodeSelectsTheTableRow : Obligations.DecodeSelectsTheTableRow :=
  fun w => ⟨decode_in_row w, fun _ => row_unique⟩

/-- Settles O53: the four fields put back are the Word under masks that cover every bit. -/
theorem codecValueAndReconstruction : Obligations.CodecValueAndReconstruction := by
  refine fun w => ⟨fun hi lo _ _ => slice_toNat w hi lo, ?_⟩
  simp only [place_slice, ← BitVec.and_or_distrib_left]
  exact BitVec.and_allOnes.symm

/-- Settles O54: the tables as they stand, and `opcodeOfBits` inverse to `opcodeBits`. -/
theorem decisionNumbersAreTheSpecs : Obligations.DecisionNumbersAreTheSpecs :=
  ⟨by decide, opcodeBits_opcodeOfBits, rfl, rfl, rfl, rfl⟩

/-- Settles O55, by running the decoder on each Word. -/
theorem exampleWordsDecode : Obligations.ExampleWordsDecode := by
  unfold Obligations.ExampleWordsDecode
  decide

end Sys2Proof.Proofs
end

section
/-! What an instruction does, as data. `effectOf` reads an instruction's effect off the state, `Effect.apply` carries it out, and
`exec_eq_apply` ties the two to `exec`. There are nine kinds of effect for the 25 rows, so what every instruction leaves
unchanged is a case split over nine kinds. -/

namespace Sys2Proof.Proofs

open Sys2Proof.Machine

/-! ### The kinds of effect -/

/-- The effect of one instruction, with every value it writes. -/
inductive Effect where
  /-- `x[dr] <- v; setcc(v); PC <- pc` (40_arith_logic.md R110). -/
  | produce (dr : Reg) (v : Word)
  /-- PC alone is written (41_control.md R130). -/
  | jump (target : Word)
  /-- One cell is written and PC moves on (42_load_store.md R150). -/
  | store (ea v : Word)
  /-- The exception is taken (60_exceptions.md R211). -/
  | raise (op : Opcode)
  /-- Values are output and PC moves on, or stays in an endless string (43_trap_system.md R184). -/
  | output (bs : List Byte) (target : Word)
  /-- GETC with a character waiting (R182). -/
  | takeChar (c : Byte) (rest : List Byte)
  /-- IN completes with a result (R185). -/
  | complete (r : Config.TrapInResult)
  /-- RUN is cleared (R187). -/
  | halt
  /-- The instruction waits for input (00_scope.md R14). -/
  | hold

/-- Carrying an effect out. -/
def Effect.apply (s : State) : Effect → Result
  | .produce dr v => .next (s.writeResult dr v)
  | .jump target => .next (s.setPc target)
  | .store ea v => .next (s.storeWord ea v)
  | .raise op => .next (s.raiseDecodeFailure op)
  | .output bs target => .next ((s.consolePut bs).setPc target)
  | .takeChar c rest => .next (State.writeResult { s with consoleIn := rest } 0 (zext16 c))
  | .complete r =>
    .next { (s.setReg 0 r.r0).advance with
      cond := flagBits r.flag, consoleIn := r.input, consoleOut := s.consoleOut ++ r.output }
  | .halt => .next (serviceHalt s)
  | .hold => .fault .awaitingInput

/-- The effect of a string output: PC moves on only past a terminator. -/
def stringEffect (s : State) (walk : StringWalk) : Effect :=
  .output walk.bytes (if walk.ended then s.nextPc else s.pc)

/-- The effect of a trap service. -/
def serviceEffect : TrapService → State → Effect
  | .getc, s =>
    match s.consoleIn with
    | [] => .hold
    | c :: rest => .takeChar c rest
  | .out, s => .output [slice (s.reg 0) 7 0] s.nextPc
  | .puts, s => stringEffect s (putsWalk s.mem Config.memSize (s.reg 0))
  | .inp, s =>
    match Config.trapInEffect s.regs s.pc s.cond s.consoleIn with
    | none => .hold
    | some r => .complete r
  | .putsp, s => stringEffect s (putspWalk s.mem Config.memSize (s.reg 0))
  | .halt, _ => .halt

/-- The effect of an instruction. -/
def effectOf : Instr → State → Effect
  | .br mask off, s => .jump (if s.cond &&& mask ≠ 0b000#3 then pcRelative s off else s.nextPc)
  | .addReg dr sr1 sr2, s => .produce dr (s.reg sr1 + s.reg sr2)
  | .addImm dr sr1 imm, s => .produce dr (s.reg sr1 + zext16 imm)
  | .ld dr off, s => .produce dr (s.memRead (pcRelative s off))
  | .st sr off, s => .store (pcRelative s off) (s.reg sr)
  | .jsr off, s => .jump (pcRelative s off)
  | .jsrr base, s => .jump (s.reg base)
  | .andReg dr sr1 sr2, s => .produce dr (s.reg sr1 &&& s.reg sr2)
  | .andImm dr sr1 imm, s => .produce dr (s.reg sr1 &&& zext16 imm)
  | .ldr dr base off, s => .produce dr (s.memRead (baseOffset s base off))
  | .str sr base off, s => .store (baseOffset s base off) (s.reg sr)
  | .rti, _ => .raise .rti
  | .not dr sr, s => .produce dr (~~~ s.reg sr)
  | .ldi dr off, s => .produce dr (s.memRead (indirect s off))
  | .sti sr off, s => .store (indirect s off) (s.reg sr)
  | .jmp base, s => .jump (s.reg base)
  | .res, _ => .raise .res
  | .lea dr off, s => .produce dr (pcRelative s off)
  | .trap v, s =>
    match serviceOfVector v with
    | some service => serviceEffect service s
    | none => .jump s.nextPc
  | .trapGetc, s => serviceEffect .getc s
  | .trapOut, s => serviceEffect .out s
  | .trapPuts, s => serviceEffect .puts s
  | .trapIn, s => serviceEffect .inp s
  | .trapPutsp, s => serviceEffect .putsp s
  | .trapHalt, s => serviceEffect .halt s

/-! ### The tie to the model -/

theorem finishString_eq_apply (s : State) (walk : StringWalk) :
    .next (finishString s walk) = (stringEffect s walk).apply s := by
  rcases finishString_cases s walk with ⟨hended, hfinish⟩ | ⟨hended, hfinish⟩ <;>
    rw [hfinish, stringEffect, hended] <;> rfl

theorem runService_eq_apply (service : TrapService) (s : State) :
    runService service s = (serviceEffect service s).apply s := by
  cases service with
  | getc =>
    rcases serviceGetc_cases s with ⟨hin, hgetc⟩ | ⟨c, rest, hin, hgetc⟩ <;>
      simp only [runService, serviceEffect, hin, hgetc, Effect.apply]
  | inp =>
    rcases serviceIn_cases s with ⟨hin, hdoes⟩ | ⟨r, hin, hdoes⟩ <;>
      simp only [runService, serviceEffect, hin, hdoes, Effect.apply]
  | puts => exact finishString_eq_apply s _
  | putsp => exact finishString_eq_apply s _
  | out => rfl
  | halt => rfl

/-- An instruction does what its effect says. -/
theorem exec_eq_apply (i : Instr) (s : State) : exec i s = (effectOf i s).apply s := by
  cases i with
  | trap v =>
    simp only [exec, execTrap, effectOf]
    cases serviceOfVector v with
    | none => rfl
    | some service => exact runService_eq_apply service s
  | trapGetc => exact runService_eq_apply .getc s
  | trapIn => exact runService_eq_apply .inp s
  | trapPuts => exact runService_eq_apply .puts s
  | trapPutsp => exact runService_eq_apply .putsp s
  | _ => rfl

/-- The generic TRAP row does what the row of its vector does (43_trap_system.md R180). -/
theorem exec_trap_eq_decodeTrap (v : BitVec 8) (s : State) : exec (.trap v) s = exec (decodeTrap v) s := by
  rcases decodeTrap_cases v with ⟨service, rfl, hrow⟩ | ⟨_, hrow⟩
  · rw [hrow]
    cases service <;> rfl
  · rw [hrow]

/-! ### Which effect an instruction has -/

/-- The instruction is a character input service that waits (43_trap_system.md R182, R185). -/
def Waits (i : Instr) (s : State) : Prop :=
  (i = .trapGetc ∧ s.consoleIn = []) ∨
    (i = .trapIn ∧ Config.trapInEffect s.regs s.pc s.cond s.consoleIn = none)

theorem holding_iff_waits (s : State) : Holding s ↔ Waits (decode s.fetchWord) s := Iff.rfl

/-- What an instruction with a given effect must be. -/
def Effect.Fits (i : Instr) (s : State) : Effect → Prop
  | .produce dr _ => destOf i = some dr
  | .jump _ => destOf i = none
  | .store _ _ => destOf i = none ∧ isStore i = true
  | .raise op => (i = .rti ∧ op = .rti) ∨ (i = .res ∧ op = .res)
  | .output _ _ => destOf i = none ∧ writesConsole i = true
  | .takeChar _ _ => i = .trapGetc
  | .complete _ => i = .trapIn
  | .halt => i = .trapHalt
  | .hold => Waits i s

theorem effectOf_trap_of_wellFormed {v : BitVec 8} (hwf : WellFormed (.trap v) = true) (s : State) :
    effectOf (.trap v) s = .jump s.nextPc := by
  have hnone : serviceOfVector v = none := Option.isNone_iff_eq_none.1 hwf
  simp only [effectOf, hnone]

theorem effectOf_fits {i : Instr} (hwf : WellFormed i = true) (s : State) : (effectOf i s).Fits i s := by
  cases i
  case trap v => rw [effectOf_trap_of_wellFormed hwf]; rfl
  case trapGetc =>
    simp only [effectOf, serviceEffect]
    cases hin : s.consoleIn with
    | nil => exact .inl ⟨rfl, hin⟩
    | cons c rest => rfl
  case trapIn =>
    simp only [effectOf, serviceEffect]
    cases hin : Config.trapInEffect s.regs s.pc s.cond s.consoleIn with
    | none => exact .inr ⟨rfl, hin⟩
    | some r => rfl
  case rti => exact .inl ⟨rfl, rfl⟩
  case res => exact .inr ⟨rfl, rfl⟩
  case st | str | sti | trapOut | trapPuts | trapPutsp => exact ⟨rfl, rfl⟩
  all_goals rfl

/-- What an instruction can do: it answers a next state by one effect that fits it. -/
theorem exec_next_cases {i : Instr} (hwf : WellFormed i = true) {s t : State} (h : exec i s = .next t) :
    ∃ e : Effect, e.Fits i s ∧ e.apply s = .next t :=
  ⟨effectOf i s, effectOf_fits hwf s, (exec_eq_apply i s).symm.trans h⟩

/-- An effect is read off the registers, PC, COND, the memory and the console input: RUN, FAULT and the past output do not
enter it (10_state.md R33, R38). -/
theorem effectOf_unseen (i : Instr) (s : State) (run : Bool) (fault : Option DecodeFailure) (out : List Byte) :
    effectOf i { s with run := run, fault := fault, consoleOut := out } = effectOf i s := by
  cases i with
  | trap v =>
    simp only [effectOf]
    cases serviceOfVector v with
    | none => rfl
    | some service => cases service <;> rfl
  | _ => rfl

end Sys2Proof.Proofs
end

section
/-! What every instruction leaves unchanged (spec 10_state.md R22, R31, R33, R38, 20_memory.md R54, 43_trap_system.md R189): each
statement is one case split over the kinds of effect. -/

namespace Sys2Proof.Proofs

open Sys2Proof.Machine

/-! ### Registers, COND and the console -/

/-- Settles O42. -/
theorem onlyTheDestinationRegisterChanges : Obligations.OnlyTheDestinationRegisterChanges := by
  intro i s t hwf hexec q hq
  obtain ⟨e, hfits, happly⟩ := exec_next_cases hwf hexec
  cases e with
  | produce dr v =>
    have hne : q ≠ dr := by rintro rfl; exact hq hfits
    cases happly
    rw [State.writeResult_reg, if_neg hne]
  | takeChar c rest =>
    have hne : q ≠ 0 := by rintro rfl; exact hq (by rw [hfits]; rfl)
    cases happly
    rw [State.writeResult_reg, if_neg hne]
    rfl
  | complete r =>
    have hne : q ≠ 0 := by rintro rfl; exact hq (by rw [hfits]; rfl)
    cases happly
    exact (s.setReg_reg 0 q r.r0).trans (if_neg hne)
  | hold => cases happly
  | _ => cases happly; rfl

/-- COND after an instruction: kept without a destination, the flag of the value written with one, and IN's free flag. -/
theorem exec_cond_cases {i : Instr} (hwf : WellFormed i = true) {s t : State} (hexec : exec i s = .next t) :
    (destOf i = none ∧ t.cond = s.cond) ∨ (∃ dr, destOf i = some dr ∧ t.cond = condOf (t.reg dr)) ∨
      (i = .trapIn ∧ ∃ flag, t.cond = flagBits flag) := by
  have hwritten (u : State) (r : Reg) (v : Word) : (u.writeResult r v).cond = condOf ((u.writeResult r v).reg r) := by
    rw [State.writeResult_cond, State.writeResult_reg, if_pos rfl]
  obtain ⟨e, hfits, happly⟩ := exec_next_cases hwf hexec
  cases e with
  | produce dr v => cases happly; exact .inr (.inl ⟨dr, hfits, hwritten s dr v⟩)
  | takeChar c rest =>
    obtain rfl := hfits
    cases happly
    exact .inr (.inl ⟨0, rfl, hwritten _ 0 (zext16 c)⟩)
  | complete r => cases happly; exact .inr (.inr ⟨hfits, r.flag, rfl⟩)
  | jump target => cases happly; exact .inl ⟨hfits, rfl⟩
  | store ea v => cases happly; exact .inl ⟨hfits.1, rfl⟩
  | output bs target => cases happly; exact .inl ⟨hfits.1, rfl⟩
  | raise op =>
    have hdest : destOf i = none := by rcases hfits with ⟨rfl, _⟩ | ⟨rfl, _⟩ <;> rfl
    cases happly
    exact .inl ⟨hdest, rfl⟩
  | halt =>
    obtain rfl := hfits
    cases happly
    exact .inl ⟨rfl, rfl⟩
  | hold => cases happly

/-- Settles O43. -/
theorem flagsFollowTheDestination : Obligations.FlagsFollowTheDestination := by
  intro i s t hwf hexec
  rcases exec_cond_cases hwf hexec with ⟨hnone, hkept⟩ | ⟨r, hdest, hcond⟩ | ⟨rfl, flag, hflag⟩
  · exact ⟨fun _ => hkept, fun dr hdr => (by rw [hnone] at hdr; cases hdr), fun hlegal => by rwa [hkept]⟩
  · refine ⟨fun hnone => (by rw [hdest] at hnone; cases hnone), fun dr hdr _ => ?_, fun _ => hcond ▸ condOf_legal _⟩
    obtain rfl : r = dr := Option.some.inj (hdest.symm.trans hdr)
    rw [hcond]
    exact condOf_matches _
  · exact ⟨fun hnone => (Option.some_ne_none _ hnone).elim, fun _ _ hne => absurd rfl hne, fun _ => ⟨flag, hflag⟩⟩

/-- Settles O46: only the two input services change the input stream, and only an output or IN appends. -/
theorem consoleIsReachedOnlyByServices : Obligations.ConsoleIsReachedOnlyByServices := by
  intro i s t hwf hexec
  obtain ⟨e, hfits, happly⟩ := exec_next_cases hwf hexec
  cases e with
  | output bs target =>
    obtain ⟨_, hwrites⟩ := hfits
    cases happly
    exact ⟨fun _ => rfl, bs, rfl, fun hno => by rw [hwrites] at hno; cases hno⟩
  | takeChar c rest =>
    obtain rfl := hfits
    cases happly
    exact ⟨fun hno => (Bool.noConfusion hno), [], (List.append_nil _).symm, fun _ => rfl⟩
  | complete r =>
    obtain rfl := hfits
    cases happly
    exact ⟨fun hno => (Bool.noConfusion hno), r.output, rfl, fun hno => (Bool.noConfusion hno)⟩
  | hold => cases happly
  | _ => cases happly; exact ⟨fun _ => rfl, [], (List.append_nil _).symm, fun _ => rfl⟩

/-- The output that an effect appends. -/
def Effect.appended : Effect → List Byte
  | .output bs _ => bs
  | .complete r => r.output
  | _ => []

/-- Carrying out an effect appends to the past output, whatever that is. -/
theorem Effect.apply_consoleOut {e : Effect} {s t : State} (h : e.apply s = .next t) :
    t.consoleOut = s.consoleOut ++ e.appended ∧
      ∀ out, e.apply { s with consoleOut := out } = .next { t with consoleOut := out ++ e.appended } := by
  cases e with
  | output bs target => cases h; exact ⟨rfl, fun _ => rfl⟩
  | complete r => cases h; exact ⟨rfl, fun _ => rfl⟩
  | hold => cases h
  | _ =>
    cases h
    simp only [Effect.appended, List.append_nil]
    exact ⟨rfl, fun _ => rfl⟩

/-- An effect without a next state is the hold. -/
theorem Effect.eq_hold_of_fault {e : Effect} {s : State} {f : Fault} (h : e.apply s = .fault f) :
    e = .hold ∧ f = .awaitingInput := by
  cases e with
  | hold => cases h; exact ⟨rfl, rfl⟩
  | _ => cases h

/-- An instruction without a next state has none with another RUN, FAULT or past output either. -/
theorem exec_fault_unseen {i : Instr} {s : State} {f : Fault} (h : exec i s = .fault f) (run : Bool)
    (fault : Option DecodeFailure) (out : List Byte) :
    exec i { s with run := run, fault := fault, consoleOut := out } = .fault f := by
  rw [exec_eq_apply] at h
  obtain ⟨hhold, rfl⟩ := Effect.eq_hold_of_fault h
  rw [exec_eq_apply, effectOf_unseen, hhold]
  rfl

/-- Settles O47. -/
theorem pastOutputIsInvisible : Obligations.PastOutputIsInvisible := by
  intro i s
  refine ⟨fun t hexec => ?_, fun f hexec out => exec_fault_unseen hexec s.run s.fault out⟩
  rw [exec_eq_apply] at hexec
  obtain ⟨happends, hany⟩ := Effect.apply_consoleOut hexec
  refine ⟨_, happends, fun out => ?_⟩
  rw [exec_eq_apply, show effectOf i { s with consoleOut := out } = effectOf i s from
    effectOf_unseen i s s.run s.fault out]
  exact hany out

/-! ### Memory -/

/-- Settles O44: for the generic TRAP row under a service's vector, through the service's own row. -/
theorem onlyStoresChangeMemory : Obligations.OnlyStoresChangeMemory := by
  have hwellFormed : ∀ (i : Instr) (s t : State), WellFormed i = true → exec i s = .next t → isStore i = false →
      MemSame s t := by
    intro i s t hwf hexec hstore a
    obtain ⟨e, hfits, happly⟩ := exec_next_cases hwf hexec
    cases e with
    | store ea v => rw [hfits.2] at hstore; cases hstore
    | hold => cases happly
    | _ => cases happly; rfl
  intro i s t hexec hstore
  cases i with
  | trap v =>
    have hnoStore : isStore (decodeTrap v) = false := by
      rcases decodeTrap_cases v with ⟨service, _, hrow⟩ | ⟨_, hrow⟩ <;> rw [hrow]
      · cases service <;> rfl
      · rfl
    exact hwellFormed _ s t (wellFormed_decodeTrap v) ((exec_trap_eq_decodeTrap v s).symm.trans hexec) hnoStore
  | _ => exact hwellFormed _ s t rfl hexec hstore

/-- Every effect keeps the canonical form of the memory. -/
theorem Effect.apply_mem_wf {e : Effect} {s t : State} (h : e.apply s = .next t) (hmem : s.mem.wf) : t.mem.wf := by
  cases e with
  | store ea v => cases h; exact Memory.write_wf _ _ _ hmem
  | hold => cases h
  | _ => cases h; exact hmem

/-! ### RUN -/

/-- RUN is cleared by the halt service and kept by every other effect. -/
theorem Effect.apply_run {e : Effect} {s t : State} (h : e.apply s = .next t) :
    (e = .halt ∧ t.run = false) ∨ (e ≠ .halt ∧ t.run = s.run) := by
  cases e with
  | halt => cases h; exact .inl ⟨rfl, rfl⟩
  | hold => cases h
  | _ => cases h; exact .inr ⟨Effect.noConfusion, rfl⟩

/-- With another RUN an effect gives the same next state but for RUN. -/
theorem Effect.apply_other_run {e : Effect} {s t : State} (h : e.apply s = .next t) (b : Bool) :
    ∃ u, e.apply { s with run := b } = .next u ∧ { u with run := t.run } = t := by
  cases e with
  | hold => cases h
  | _ => cases h; exact ⟨_, rfl, rfl⟩

/-- Settles O45. -/
theorem runIsClearedOnlyByHalt : Obligations.RunIsClearedOnlyByHalt := by
  refine ⟨rfl, fun s t hstep => ?step, fun i s b => ⟨fun t hexec => ?next, fun f hexec => ?fault⟩⟩
  case step =>
    obtain ⟨⟨hrun, _⟩, hexec⟩ := step_next_cases hstep
    refine ⟨hrun, ?_⟩
    rw [exec_eq_apply] at hexec
    have hfits := effectOf_fits (wellFormed_decode s.fetchWord) s
    rcases Effect.apply_run hexec with ⟨hhalt, hcleared⟩ | ⟨hother, hkept⟩
    · rw [hhalt] at hfits
      exact ⟨fun _ => hfits, fun _ => hcleared⟩
    · refine ⟨fun hfalse => ?_, fun hdecode => absurd (by rw [hdecode]; rfl) hother⟩
      rw [hkept, hrun] at hfalse
      cases hfalse
  case next =>
    rw [exec_eq_apply] at hexec
    rw [exec_eq_apply, show effectOf i { s with run := b } = effectOf i s from
      effectOf_unseen i s b s.fault s.consoleOut]
    exact Effect.apply_other_run hexec b
  case fault => exact exec_fault_unseen hexec b s.fault s.consoleOut

end Sys2Proof.Proofs
end

section
/-! The sequencer (spec 10_state.md R25, R39, 60_exceptions.md R211): when there is a step, which instructions raise the one
exception, and the invariant that every step keeps. -/

namespace Sys2Proof.Proofs

open Sys2Proof.Machine

/-! ### The step -/

theorem step_of_running {s : State} (hrun : Running s) : step s = exec (decode s.fetchWord) s := by
  rw [step, State.stopped_eq_none.2 hrun]

theorem step_of_stopped {s : State} {reason : Fault} (hstop : s.stopped = some reason) : step s = .fault reason := by
  rw [step, hstop]

theorem effectOf_of_waits {i : Instr} {s : State} (hwaits : Waits i s) : effectOf i s = .hold := by
  rcases hwaits with ⟨rfl, hin⟩ | ⟨rfl, hin⟩ <;> simp only [effectOf, serviceEffect, hin]

theorem exec_of_waits {i : Instr} {s : State} (hwaits : Waits i s) : exec i s = .fault .awaitingInput := by
  rw [exec_eq_apply, effectOf_of_waits hwaits]
  rfl

/-- An instruction that does not wait has a next state. -/
theorem exec_of_not_waits {i : Instr} (hwf : WellFormed i = true) {s : State} (hwaits : ¬ Waits i s) :
    ∃ t, exec i s = .next t := by
  have hfits := effectOf_fits hwf s
  rw [exec_eq_apply]
  cases he : effectOf i s with
  | hold => rw [he] at hfits; exact absurd hfits hwaits
  | _ => exact ⟨_, rfl⟩

theorem exec_ne_refused (i : Instr) (s : State) (r : Refusal) : exec i s ≠ .refused r := by
  rw [exec_eq_apply]
  cases effectOf i s <;> exact nofun

/-- Settles O35. -/
theorem stepRunsTheDecodedInstruction : Obligations.StepRunsTheDecodedInstruction := by
  rintro s _ hrun rfl
  exact ⟨wellFormed_decode _, step_of_running hrun⟩

/-- Settles O36. -/
theorem stepExistsExactlyWhenRunningAndNotHeld : Obligations.StepExistsExactlyWhenRunningAndNotHeld := by
  have hheld (s : State) (hrun : Running s) (hhold : Holding s) : step s = .fault .awaitingInput :=
    (step_of_running hrun).trans (exec_of_waits ((holding_iff_waits s).1 hhold))
  refine ⟨fun i s f hexec => ?fault, fun s => ⟨⟨?next, ?steps⟩, ?refused, hheld s, ?faulted, ?halted⟩⟩
  case fault =>
    rw [exec_eq_apply] at hexec
    exact (Effect.eq_hold_of_fault hexec).2
  case next =>
    rintro ⟨t, hstep⟩
    obtain ⟨hrun, _⟩ := step_next_cases hstep
    refine ⟨hrun, fun hhold => ?_⟩
    rw [hheld s hrun hhold] at hstep
    cases hstep
  case steps =>
    rintro ⟨hrun, hfree⟩
    rw [step_of_running hrun]
    exact exec_of_not_waits (wellFormed_decode _) hfree
  case refused =>
    intro r
    cases hstop : s.stopped with
    | none => rw [step_of_running (State.stopped_eq_none.1 hstop)]; exact exec_ne_refused _ s r
    | some reason => rw [step_of_stopped hstop]; exact nofun
  case faulted => exact fun f hfault => step_of_stopped (by rw [State.stopped, hfault])
  case halted => exact fun hfault hrun => step_of_stopped (by rw [State.stopped, hfault, hrun]; rfl)

/-! ### The one exception -/

/-- An effect latches FAULT when it raises, and keeps it otherwise. -/
theorem Effect.apply_fault {e : Effect} {s t : State} (h : e.apply s = .next t) :
    (∃ op, e = .raise op ∧ t = s.raiseDecodeFailure op) ∨ ((∀ op, e ≠ .raise op) ∧ t.fault = s.fault) := by
  cases e with
  | raise op => cases h; exact .inl ⟨op, rfl, rfl⟩
  | hold => cases h
  | _ => cases h; exact .inr ⟨fun _ => Effect.noConfusion, rfl⟩

/-- A Word decodes to RTI or RES exactly under their opcodes. -/
theorem opcode_of_decode_rti {w : Word} (h : decode w = .rti) : slice w 15 12 = opcodeBits .rti := by
  have hrow := decode_in_row w
  rw [h] at hrow
  exact opcode_of_row hrow

theorem opcode_of_decode_res {w : Word} (h : decode w = .res) : slice w 15 12 = opcodeBits .res := by
  have hrow := decode_in_row w
  rw [h] at hrow
  exact opcode_of_row hrow

/-- The effect of the instruction at PC raises under a reserved opcode only, the opcode it records. -/
theorem opcode_of_raise {s : State} {op : Opcode} (h : effectOf (decode s.fetchWord) s = .raise op) :
    (op = .rti ∨ op = .res) ∧ slice s.fetchWord 15 12 = opcodeBits op := by
  have hfits := effectOf_fits (wellFormed_decode s.fetchWord) s
  rw [h] at hfits
  rcases hfits with ⟨hrti, rfl⟩ | ⟨hres, rfl⟩
  · exact ⟨.inl rfl, opcode_of_decode_rti hrti⟩
  · exact ⟨.inr rfl, opcode_of_decode_res hres⟩

/-- Settles O37. -/
theorem onlyReservedOpcodesRaise : Obligations.OnlyReservedOpcodesRaise := by
  refine ⟨fun i s hwf => ?total, fun s t hstep => ?raises⟩
  case total => exact or_iff_not_imp_right.2 (exec_of_not_waits hwf)
  case raises =>
    obtain ⟨⟨_, hnone⟩, hexec⟩ := step_next_cases hstep
    rw [exec_eq_apply] at hexec
    rcases Effect.apply_fault hexec with ⟨op, hraise, rfl⟩ | ⟨hother, hkept⟩
    · obtain ⟨hreserved, hopcode⟩ := opcode_of_raise hraise
      refine ⟨fun _ => ?_, fun _ => Option.some_ne_none _⟩
      rcases hreserved with rfl | rfl
      · exact .inl hopcode
      · exact .inr hopcode
    · refine ⟨fun hlatched => absurd (hkept.trans hnone) hlatched, ?_⟩
      rintro (hrti | hres)
      · exact absurd (by rw [decode_of_rti hrti]; rfl) (hother .rti)
      · exact absurd (by rw [decode_of_res hres]; rfl) (hother .res)

/-! ### The invariant -/

/-- A session launched on a canonical memory meets the invariant: COND is Zero and FAULT none. -/
theorem launch_inv {m : Memory} (hmem : m.wf) (input : List Byte) : Inv (State.launch m input) :=
  ⟨hmem, ⟨.zero, rfl⟩, fun _ hlatched => nomatch hlatched⟩

/-- Settles O56. -/
theorem resetMeetsTheInvariant : Obligations.ResetMeetsTheInvariant := by
  refine ⟨?_, fun m input hmem => launch_inv hmem input⟩
  rw [State.reset_eq_launch]
  exact launch_inv State.reset_mem_wf []

/-- Settles O57: no step starts from a latched FAULT, so a record in the next state was latched by this step. -/
theorem everyStepKeepsTheInvariant : Obligations.EveryStepKeepsTheInvariant := by
  rintro s t ⟨hmem, hlegal, _⟩ hstep
  obtain ⟨⟨hrun, hnone⟩, hexec⟩ := step_next_cases hstep
  obtain ⟨_, _, hcond⟩ := flagsFollowTheDestination _ s t (wellFormed_decode _) hexec
  rw [exec_eq_apply] at hexec
  refine ⟨Effect.apply_mem_wf hexec hmem, hcond hlegal, fun f hf => ?_⟩
  rcases Effect.apply_fault hexec with ⟨op, hraise, rfl⟩ | ⟨_, hkept⟩
  · obtain ⟨hreserved, hopcode⟩ := opcode_of_raise hraise
    obtain rfl : ⟨opcodeBits op, s.pc⟩ = f := Option.some.inj hf
    exact ⟨hreserved.imp (congrArg opcodeBits) (congrArg opcodeBits), hopcode, rfl, hrun⟩
  · rw [hkept, hnone] at hf
    cases hf

end Sys2Proof.Proofs
end

section
/-! ADD and AND in their immediate forms (spec 40_arith_logic.md R112, R114), and the agreement of the two forms. -/

namespace Sys2Proof.Proofs

open Sys2Proof.Machine

theorem exec_addImm (dr sr1 : Reg) (imm : BitVec 5) (s : State) :
    exec (.addImm dr sr1 imm) s = .next (s.writeResult dr (s.reg sr1 + zext16 imm)) := rfl

theorem exec_andImm (dr sr1 : Reg) (imm : BitVec 5) (s : State) :
    exec (.andImm dr sr1 imm) s = .next (s.writeResult dr (s.reg sr1 &&& zext16 imm)) := rfl

/-- A Word below 0x8000 is never Negative (10_state.md R30). -/
theorem condOf_ne_negative {v : Word} (hv : v.toNat < 32768) : condOf v ≠ flagBits .negative := by
  have hmsb : v.msb = false := by
    rw [BitVec.msb_eq_false_iff_two_mul_lt]
    omega
  by_cases hzero : v = 0x0000#16 <;> simp [condOf, flagOf, flagBits, hzero, hmsb]

/-- Settles O3. -/
theorem addImmediateForm : Obligations.AddImmediateForm := by
  refine ⟨fun _ hop hmode => decode_of_add_immediate_mode hop hmode, fun dr sr1 imm s => ?_⟩
  have hsum : (s.reg sr1 + zext16 imm).toNat = ((s.reg sr1).toNat + imm.toNat) % 65536 := by
    rw [BitVec.toNat_add, zext16_toNat imm (by decide)]
  exact ⟨_, _, exec_addImm dr sr1 imm s, hsum, s.writeResult_produces dr _⟩

/-- Settles O5: a value masked by a zero-extended imm5 is at most 31. -/
theorem andImmediateForm : Obligations.AndImmediateForm := by
  refine ⟨fun _ hop hmode => decode_of_and_immediate_mode hop hmode, fun dr sr1 imm s => ?_⟩
  have hbits : ∀ i, (s.reg sr1 &&& zext16 imm).getLsbD i = ((s.reg sr1).getLsbD i && imm.getLsbD i) := by
    intro i
    by_cases hi : i < 16
    · simp [zext16, hi]
    · simp [BitVec.getLsbD_of_ge (s.reg sr1) i (by omega)]
  have hle : (s.reg sr1 &&& zext16 imm).toNat ≤ 31 := by
    rw [BitVec.toNat_and, zext16_toNat imm (by decide)]
    exact Nat.and_le_right.trans (Nat.le_of_lt_succ imm.isLt)
  exact ⟨_, _, exec_andImm dr sr1 imm s, hbits, hle, condOf_ne_negative (by omega), s.writeResult_produces dr _⟩

/-- Settles O7: the register's value is the zero-extended immediate. -/
theorem modeBitWithEqualOperandsAgrees : Obligations.ModeBitWithEqualOperandsAgrees := by
  intro dr sr1 sr2 imm s hvalue
  have hsame : s.reg sr2 = zext16 imm := BitVec.eq_of_toNat_eq (hvalue.trans (zext16_toNat imm (by decide)).symm)
  rw [exec_addReg, exec_addImm, exec_andReg, exec_andImm, hsame]
  exact ⟨rfl, rfl⟩

end Sys2Proof.Proofs
end

section
/-! BR and JSR (spec 41_control.md R131, R133), and the zero Word as a branch that is never taken. -/

namespace Sys2Proof.Proofs

open Sys2Proof.Machine

theorem exec_br (mask : BitVec 3) (off : BitVec 9) (s : State) :
    exec (.br mask off) s = .next (s.setPc (if s.cond &&& mask ≠ 0b000#3 then pcRelative s off else s.pc + 1#16)) := rfl

theorem exec_jsr (off : BitVec 11) (s : State) : exec (.jsr off) s = .next (s.setPc (pcRelative s off)) := rfl

theorem exec_br_taken {mask : BitVec 3} {s : State} (htaken : s.cond &&& mask ≠ 0b000#3) (off : BitVec 9) :
    exec (.br mask off) s = .next (s.setPc (pcRelative s off)) := by
  rw [exec_br, if_pos htaken]

theorem exec_br_not_taken {mask : BitVec 3} {s : State} (hnot : s.cond &&& mask = 0b000#3) (off : BitVec 9) :
    exec (.br mask off) s = .next (s.setPc (s.pc + 1#16)) := by
  rw [exec_br, if_neg (not_not_intro hnot)]

/-- The flags are one-hot: two of them meet exactly when they are the same (10_state.md R28). -/
theorem flagBits_and_ne_zero_iff (f g : CondFlag) : flagBits f &&& flagBits g ≠ 0b000#3 ↔ flagBits f = flagBits g := by
  cases f <;> cases g <;> decide

/-- Settles O8. -/
theorem branchTakenAndNotTaken : Obligations.BranchTakenAndNotTaken := by
  intro mask off s
  by_cases htaken : s.cond &&& mask = 0b000#3
  · exact ⟨_, exec_br_not_taken htaken off, fun hne => absurd htaken hne, fun _ => rfl, s.setPc_jumps _⟩
  · exact ⟨_, exec_br_taken htaken off, fun _ => pcRelative_toNat s off (by decide), fun heq => absurd heq htaken,
      s.setPc_jumps _⟩

/-- Settles O9. -/
theorem branchMaskSelectsFlag : Obligations.BranchMaskSelectsFlag := by
  rintro off s ⟨g, hcond⟩
  have hall : s.cond &&& 0b111#3 ≠ 0b000#3 := by rw [hcond]; cases g <;> decide
  refine ⟨exec_br_taken hall off, exec_br_not_taken BitVec.and_zero off, fun f => ?_⟩
  rw [exec_br, hcond]
  simp only [flagBits_and_ne_zero_iff]

/-- Settles O11. -/
theorem jsrJumpsForwardWithoutLink : Obligations.JsrJumpsForwardWithoutLink := by
  refine ⟨fun _ hop hmode => decode_of_jsr_relative_mode hop hmode, fun off s => ?_⟩
  exact ⟨_, exec_jsr off s, pcRelative_toNat s off (by decide), s.setPc_jumps _⟩

/-- Settles O38: a zero Word is BR with mask 000. -/
theorem zeroWordOnlyAdvancesPc : Obligations.ZeroWordOnlyAdvancesPc := by
  intro s hrun hzero
  have hdecode : decode s.fetchWord = .br 0b000#3 0#9 := by
    rw [State.fetchWord_eq, hzero]
    exact decode_of_br rfl
  rw [step_of_running hrun, hdecode, exec_br_not_taken BitVec.and_zero]
  rfl

end Sys2Proof.Proofs
end

section
/-! The loads, LEA and the stores (spec 42_load_store.md): the meaning of each as one result write or one store, and the
statements. -/

namespace Sys2Proof.Proofs

open Sys2Proof.Machine

/-! ### The meanings -/

theorem exec_ld (dr : Reg) (off : BitVec 9) (s : State) :
    exec (.ld dr off) s = .next (s.writeResult dr (s.memRead (pcRelative s off))) := rfl

theorem exec_ldi (dr : Reg) (off : BitVec 9) (s : State) :
    exec (.ldi dr off) s = .next (s.writeResult dr (s.memRead (s.memRead (pcRelative s off)))) := rfl

theorem exec_ldr (dr base : Reg) (off : BitVec 6) (s : State) :
    exec (.ldr dr base off) s = .next (s.writeResult dr (s.memRead (baseOffset s base off))) := rfl

theorem exec_lea (dr : Reg) (off : BitVec 9) (s : State) :
    exec (.lea dr off) s = .next (s.writeResult dr (pcRelative s off)) := rfl

theorem exec_st (sr : Reg) (off : BitVec 9) (s : State) :
    exec (.st sr off) s = .next (s.storeWord (pcRelative s off) (s.reg sr)) := rfl

theorem exec_sti (sr : Reg) (off : BitVec 9) (s : State) :
    exec (.sti sr off) s = .next (s.storeWord (indirect s off) (s.reg sr)) := rfl

theorem exec_str (sr base : Reg) (off : BitVec 6) (s : State) :
    exec (.str sr base off) s = .next (s.storeWord (baseOffset s base off) (s.reg sr)) := rfl

/-! ### The statements: loads and LEA -/

/-- Settles O13. -/
theorem loadPcRelative : Obligations.LoadPcRelative :=
  fun dr off s => ⟨_, _, exec_ld dr off s, pcRelative_toNat s off (by decide), s.writeResult_produces dr _⟩

/-- Settles O14. -/
theorem loadIndirect : Obligations.LoadIndirect :=
  fun dr off s => ⟨_, _, exec_ldi dr off s, pcRelative_toNat s off (by decide), s.writeResult_produces dr _⟩

/-- Settles O15. -/
theorem loadBaseOffset : Obligations.LoadBaseOffset :=
  fun dr base off s => ⟨_, _, exec_ldr dr base off s, baseOffset_toNat s base off, s.writeResult_produces dr _⟩

/-- Settles O16. -/
theorem loadEffectiveAddress : Obligations.LoadEffectiveAddress :=
  fun dr off s => ⟨_, _, exec_lea dr off s, pcRelative_toNat s off (by decide), s.writeResult_produces dr _⟩

/-! ### The statements: stores -/

/-- Settles O17. -/
theorem storePcRelative : Obligations.StorePcRelative :=
  fun sr off s => ⟨pcRelative_toNat s off (by decide), _, exec_st sr off s, s.storeWord_stores _ _⟩

/-- Settles O18. -/
theorem storeIndirect : Obligations.StoreIndirect :=
  fun sr off s => ⟨rfl, _, exec_sti sr off s, s.storeWord_stores _ _⟩

/-- Settles O19. -/
theorem storeBaseOffset : Obligations.StoreBaseOffset :=
  fun sr base off s => ⟨baseOffset_toNat s base off, _, exec_str sr base off s, s.storeWord_stores _ _⟩

/-! ### The statements: a store and what comes next -/

/-- A store writes no register, so the same base and offset name the same cell after it. -/
theorem baseOffset_storeWord (s : State) (ea v : Word) (base : Reg) (off : BitVec 6) :
    baseOffset (s.storeWord ea v) base off = baseOffset s base off := rfl

/-- Offset 0 names the next instruction. -/
theorem pcRelative_zero (s : State) : pcRelative s (0#9) = s.pc + 1#16 := by
  simp [pcRelative, zext16]

/-- Settles O20. -/
theorem storeIsSeenByTheNextLoad : Obligations.StoreIsSeenByTheNextLoad := by
  intro sr dr base off s
  refine ⟨_, _, exec_str sr base off s, exec_ldr dr base off _, ?_⟩
  rw [State.writeResult_reg, if_pos rfl, baseOffset_storeWord, State.storeWord_memRead, if_pos rfl]

/-- Settles O21: ST with offset 0 writes the cell PC moves to, and leaves the core Running. -/
theorem storeIsSeenByTheNextFetch : Obligations.StoreIsSeenByTheNextFetch := by
  intro sr s hrun
  have hfetch : (s.storeWord (pcRelative s 0#9) (s.reg sr)).fetchWord = s.reg sr := by
    rw [State.fetchWord_eq, State.storeWord_memRead, State.storeWord_pc, pcRelative_zero, if_pos rfl]
  have hrunning : Running (s.storeWord (pcRelative s 0#9) (s.reg sr)) := hrun
  exact ⟨_, exec_st sr 0#9 s, hfetch, by rw [step_of_running hrunning, hfetch]⟩

end Sys2Proof.Proofs
end

section
/-! TRAP by its vector, GETC, IN and HALT (spec 43_trap_system.md R180, R182, R185, R187, R188). -/

namespace Sys2Proof.Proofs

open Sys2Proof.Machine

/-! ### The vector -/

/-- A vector outside 0x20 to 0x25 is no service's (43_trap_system.md R181). -/
theorem serviceOfVector_outside {v : BitVec 8} (hv : v.toNat < 0x20 ∨ 0x25 < v.toNat) : serviceOfVector v = none := by
  rcases decodeTrap_cases v with ⟨service, rfl, _⟩ | ⟨hnone, _⟩
  · cases service <;> simp [serviceVector] at hv
  · exact hnone

theorem exec_service_row (service : TrapService) (s : State) :
    exec (.trap (serviceVector service)) s = exec (serviceInstr service) s := by
  rw [exec_trap_eq_decodeTrap, decodeTrap_serviceVector]

/-- Settles O22. -/
theorem trapDispatchesByVector : Obligations.TrapDispatchesByVector :=
  ⟨fun _ hop => decode_of_trap hop, fun s =>
    ⟨exec_service_row .getc s, exec_service_row .out s, exec_service_row .puts s, exec_service_row .inp s,
      exec_service_row .putsp s, exec_service_row .halt s⟩⟩

/-- Settles O23. -/
theorem unknownTrapVectorIsNoOp : Obligations.UnknownTrapVectorIsNoOp := by
  intro v s hv
  have hwf : WellFormed (.trap v) = true := by rw [WellFormed, serviceOfVector_outside hv, Option.isNone_none]
  refine ⟨hwf, ?_⟩
  rw [exec_eq_apply, effectOf_trap_of_wellFormed hwf]
  rfl

/-! ### GETC -/

/-- GETC with a character waiting is a result write to R0 after the character has left the stream. -/
theorem exec_trapGetc_of_char {s : State} {c : Byte} {rest : List Byte} (hin : s.consoleIn = c :: rest) :
    exec .trapGetc s = .next (State.writeResult { s with consoleIn := rest } 0 (zext16 c)) := by
  simp only [exec_eq_apply, effectOf, serviceEffect, hin, Effect.apply]

/-- Settles O24. -/
theorem getcReadsOneCharacter : Obligations.GetcReadsOneCharacter := by
  intro c rest s hin
  have hchar : (zext16 c).toNat = c.toNat := zext16_toNat c (by decide)
  obtain ⟨hreg, hcond, hpc, hothers, hmem, hcontrol, hconsoleIn, hconsoleOut⟩ :=
    State.writeResult_produces { s with consoleIn := rest } 0 (zext16 c)
  refine ⟨_, exec_trapGetc_of_char hin, by rw [hreg, hchar], by rw [hreg]; exact hcond, ?_, hconsoleIn, hconsoleOut, hpc,
    hothers, hmem, hcontrol⟩
  exact condOf_ne_negative (by have := c.isLt; omega)

/-- Settles O25: the supplied characters are all that the held state lacks. -/
theorem getcHoldsOnEmptyInput : Obligations.GetcHoldsOnEmptyInput := by
  intro s hrun hdecode hempty
  refine ⟨?holds, fun c cs => ?supplied⟩
  case holds =>
    rw [step_of_running hrun]
    exact exec_of_waits (.inl ⟨hdecode, hempty⟩)
  case supplied =>
    have hin : (s.supplyInput (c :: cs)).consoleIn = c :: cs := by rw [State.supplyInput_consoleIn, hempty]; rfl
    have hrunning : Running (s.supplyInput (c :: cs)) := hrun
    have hfetch : decode (s.supplyInput (c :: cs)).fetchWord = .trapGetc := hdecode
    obtain ⟨t, hexec, hreg, _, _, hrest, _, hpc, _⟩ := getcReadsOneCharacter c cs _ hin
    exact ⟨t, by rw [step_of_running hrunning, hfetch, hexec], hpc, hreg, hrest⟩

/-! ### IN and HALT -/

/-- Settles O31. -/
theorem inChangesOnlyR0CondAndStreams : Obligations.InChangesOnlyR0CondAndStreams := by
  refine fun s => ⟨rfl, rfl, fun r => ?_⟩
  have hcompletes (heffect : Config.trapInEffect s.regs s.pc s.cond s.consoleIn = some r) :
      exec .trapIn s = applyTrapIn s (some r) := congrArg (applyTrapIn s) heffect
  exact ⟨_, rfl, hcompletes, (s.setReg_reg 0 0 r.r0).trans (if_pos rfl), rfl, rfl, rfl, rfl,
    fun q hq => (s.setReg_reg 0 q r.r0).trans (if_neg hq), fun _ => rfl, rfl, rfl⟩

/-- Settles O32. -/
theorem haltClearsRunAndStops : Obligations.HaltClearsRunAndStops := by
  refine fun s => ⟨_, rfl, rfl, fun u hstep => ?_⟩
  obtain ⟨⟨hrun, _⟩, _⟩ := step_next_cases hstep
  exact Bool.false_ne_true hrun

end Sys2Proof.Proofs
end

section
/-! PUTS and PUTSP (spec 43_trap_system.md R184, R186): what their walks give on a string that ends and on a memory without a
terminator, and the endless run of R256. -/

namespace Sys2Proof.Proofs

open Sys2Proof.Machine

/-- Walking on from the next cell. -/
theorem next_cell_add (p : Word) (k : Nat) : p + 1#16 + BitVec.ofNat 16 k = p + BitVec.ofNat 16 (k + 1) := by
  apply BitVec.eq_of_toNat_eq
  simp
  omega

theorem cell_add_zero (p : Word) : p + BitVec.ofNat 16 0 = p := BitVec.add_zero p

/-! ### The walk of PUTS -/

theorem putsWalk_of_zero {m : Memory} {p : Word} (h : m.read p = 0x0000#16) (n : Nat) :
    putsWalk m (n + 1) p = ⟨[], true⟩ := by
  rw [putsWalk, h]
  rfl

theorem putsWalk_of_ne {m : Memory} {p : Word} (h : m.read p ≠ 0x0000#16) (n : Nat) :
    putsWalk m (n + 1) p =
      ⟨slice (m.read p) 7 0 :: (putsWalk m n (p + 1#16)).bytes, (putsWalk m n (p + 1#16)).ended⟩ := by
  rw [putsWalk]
  exact if_neg h

/-- A string that ends inside the walk: the low bytes up to the first zero Word. -/
theorem putsWalk_of_terminated {m : Memory} {fuel n : Nat} {p : Word} (hfuel : n < fuel)
    (hne : ∀ k, k < n → m.read (p + BitVec.ofNat 16 k) ≠ 0x0000#16)
    (hzero : m.read (p + BitVec.ofNat 16 n) = 0x0000#16) :
    putsWalk m fuel p = ⟨(List.range n).map fun k => slice (m.read (p + BitVec.ofNat 16 k)) 7 0, true⟩ := by
  induction fuel generalizing n p with
  | zero => omega
  | succ fuel ih =>
    cases n with
    | zero =>
      rw [cell_add_zero] at hzero
      exact putsWalk_of_zero hzero fuel
    | succ n =>
      have hfirst := hne 0 (by omega)
      rw [cell_add_zero] at hfirst
      have hrest := ih (n := n) (p := p + 1#16) (by omega)
        (fun k hk => by rw [next_cell_add]; exact hne (k + 1) (by omega)) (by rw [next_cell_add]; exact hzero)
      simp only [next_cell_add] at hrest
      rw [putsWalk_of_ne hfirst, hrest, List.range_succ_eq_map, List.map_cons, List.map_map, cell_add_zero]
      rfl

/-- A memory without a zero Word: the walk goes the whole way. -/
theorem putsWalk_unterminated {m : Memory} (hne : ∀ a, m.read a ≠ 0x0000#16) (n : Nat) (p : Word) :
    (putsWalk m n p).ended = false ∧ (putsWalk m n p).bytes.length = n := by
  induction n generalizing p with
  | zero => exact ⟨rfl, rfl⟩
  | succ n ih =>
    obtain ⟨hended, hlength⟩ := ih (p + 1#16)
    rw [putsWalk_of_ne (hne p)]
    exact ⟨hended, congrArg (· + 1) hlength⟩

/-! ### The walk of PUTSP -/

theorem packedByte_zero (m : Memory) (p : Word) : packedByte m p 0 = slice (m.read p) 7 0 := by
  simp [packedByte]

theorem packedByte_one (m : Memory) (p : Word) : packedByte m p 1 = slice (m.read p) 15 8 := by
  simp [packedByte]

/-- Two bytes on is one cell on. -/
theorem packedByte_add_two (m : Memory) (p : Word) (j : Nat) : packedByte m p (j + 2) = packedByte m (p + 1#16) j := by
  simp only [packedByte, next_cell_add, Nat.add_mod_right, Nat.add_div_right j Nat.two_pos]

theorem putspWalk_of_low_zero {m : Memory} {p : Word} (hlow : packedByte m p 0 = 0x00#8) (n : Nat) :
    putspWalk m (n + 1) p = ⟨[], true⟩ := by
  rw [packedByte_zero] at hlow
  rw [putspWalk]
  exact if_pos hlow

theorem putspWalk_of_high_zero {m : Memory} {p : Word} (hlow : packedByte m p 0 ≠ 0x00#8)
    (hhigh : packedByte m p 1 = 0x00#8) (n : Nat) : putspWalk m (n + 1) p = ⟨[packedByte m p 0], true⟩ := by
  rw [packedByte_zero] at hlow ⊢
  rw [packedByte_one] at hhigh
  rw [putspWalk]
  exact (if_neg hlow).trans (if_pos hhigh)

theorem putspWalk_of_ne {m : Memory} {p : Word} (hlow : packedByte m p 0 ≠ 0x00#8)
    (hhigh : packedByte m p 1 ≠ 0x00#8) (n : Nat) :
    putspWalk m (n + 1) p =
      ⟨packedByte m p 0 :: packedByte m p 1 :: (putspWalk m n (p + 1#16)).bytes,
        (putspWalk m n (p + 1#16)).ended⟩ := by
  rw [packedByte_zero] at hlow ⊢
  rw [packedByte_one] at hhigh ⊢
  rw [putspWalk]
  exact (if_neg hlow).trans (if_neg hhigh)

/-- A string that ends inside the walk: the bytes up to the first zero byte. -/
theorem putspWalk_of_terminated {m : Memory} {fuel n : Nat} {p : Word} (hfuel : n < 2 * fuel)
    (hne : ∀ k, k < n → packedByte m p k ≠ 0x00#8) (hzero : packedByte m p n = 0x00#8) :
    putspWalk m fuel p = ⟨(List.range n).map (packedByte m p), true⟩ := by
  induction fuel generalizing n p with
  | zero => omega
  | succ fuel ih =>
    match n with
    | 0 => exact putspWalk_of_low_zero hzero fuel
    | 1 => exact putspWalk_of_high_zero (hne 0 (by omega)) hzero fuel
    | n + 2 =>
      have hrest := ih (n := n) (p := p + 1#16) (by omega)
        (fun k hk => by rw [← packedByte_add_two]; exact hne (k + 2) (by omega))
        (by rw [← packedByte_add_two]; exact hzero)
      have hshift : packedByte m (p + 1#16) = packedByte m p ∘ (· + 1) ∘ (· + 1) :=
        funext fun j => (packedByte_add_two m p j).symm
      rw [putspWalk_of_ne (hne 0 (by omega)) (hne 1 (by omega)), hrest, hshift]
      simp only [List.range_succ_eq_map, List.map_cons, List.map_map]

/-- A memory without a zero byte: the walk goes the whole way, two values a Word. -/
theorem putspWalk_unterminated {m : Memory}
    (hne : ∀ a, slice (m.read a) 7 0 ≠ 0x00#8 ∧ slice (m.read a) 15 8 ≠ 0x00#8) (n : Nat) (p : Word) :
    (putspWalk m n p).ended = false ∧ (putspWalk m n p).bytes.length = 2 * n := by
  induction n generalizing p with
  | zero => exact ⟨rfl, rfl⟩
  | succ n ih =>
    obtain ⟨hended, hlength⟩ := ih (p + 1#16)
    obtain ⟨hlow, hhigh⟩ := hne p
    rw [putspWalk_of_ne (by rwa [packedByte_zero]) (by rwa [packedByte_one])]
    exact ⟨hended, by rw [List.length_cons, List.length_cons, hlength]; omega⟩

/-! ### A string that ends -/

theorem exec_trapPuts (s : State) :
    exec .trapPuts s = .next (finishString s (putsWalk s.mem Config.memSize (s.reg 0))) := rfl

theorem exec_trapPutsp (s : State) :
    exec .trapPutsp s = .next (finishString s (putspWalk s.mem Config.memSize (s.reg 0))) := rfl

theorem finishString_of_ended (s : State) (bs : List Byte) : finishString s ⟨bs, true⟩ = (s.consolePut bs).advance := rfl

/-- Settles O27. -/
theorem putsOutputsUpToZeroWord : Obligations.PutsOutputsUpToZeroWord := by
  intro n s hn hne hzero
  refine ⟨_, exec_trapPuts s, ?_⟩
  rw [putsWalk_of_terminated (fuel := Config.memSize) hn hne hzero, finishString_of_ended]
  exact s.consolePut_advance_outputs _

/-- Settles O29. -/
theorem putspOutputsUpToZeroByte : Obligations.PutspOutputsUpToZeroByte := by
  intro n s hn hne hzero
  refine ⟨_, exec_trapPutsp s, ?_⟩
  rw [putspWalk_of_terminated (fuel := Config.memSize) hn hne hzero, finishString_of_ended]
  exact s.consolePut_advance_outputs _

/-! ### A string that never ends -/

theorem run_succ_of_step {s t : core.State} (hstep : core.step s = .next t) (k : Nat) :
    core.run (k + 1) s = core.run k t := by
  rw [Host.Core.run, hstep]

theorem consolePut_consolePut (s : State) (bs out : List Byte) :
    (s.consolePut bs).consolePut out = s.consolePut (bs ++ out) := by
  simp [State.consolePut]

/-- An output that leaves PC where it is happens again in every step. -/
theorem run_of_lap {s : State} {bs : List Byte} (hrun : Running s)
    (hlap : effectOf (decode s.fetchWord) s = .output bs s.pc) (k : Nat) :
    ∃ out, out.length = bs.length * k ∧ Host.Core.run core k s = .next (s.consolePut out) := by
  induction k generalizing s with
  | zero => exact ⟨[], rfl, by simp [Host.Core.run, State.consolePut]⟩
  | succ k ih =>
    have hstep : step s = .next (s.consolePut bs) := by
      rw [step_of_running hrun, exec_eq_apply, hlap]
      rfl
    have hagain : effectOf (decode (s.consolePut bs).fetchWord) (s.consolePut bs) = .output bs (s.consolePut bs).pc :=
      (effectOf_unseen _ s s.run s.fault (s.consoleOut ++ bs)).trans hlap
    obtain ⟨out, hlength, hends⟩ := ih (s := s.consolePut bs) hrun hagain
    refine ⟨bs ++ out, by rw [List.length_append, hlength, Nat.mul_succ, Nat.add_comm], ?_⟩
    exact (run_succ_of_step hstep k).trans (hends.trans (congrArg _ (consolePut_consolePut s bs out)))

/-- A string service that meets no terminator outputs a lap in every step and stays at its instruction
(70_reset_and_hazards.md R256). -/
theorem unterminated_string_runs {s : State} {walk : StringWalk} (hrun : Running s)
    (hservice : effectOf (decode s.fetchWord) s = stringEffect s walk) (hended : walk.ended = false) (k : Nat) :
    ∃ t, Host.Core.run core k s = .next t ∧
      ∃ bs, bs.length = walk.bytes.length * k ∧ OnlyOutputs s t bs s.pc := by
  have hlap : effectOf (decode s.fetchWord) s = .output walk.bytes s.pc := by
    rw [hservice, stringEffect, hended]
    rfl
  obtain ⟨out, hlength, hends⟩ := run_of_lap hrun hlap k
  exact ⟨_, hends, out, hlength, s.consolePut_outputs out⟩

/-- Settles O28. -/
theorem unterminatedPutsRunsForEver : Obligations.UnterminatedPutsRunsForEver := by
  intro s hrun hdecode hne k
  obtain ⟨hended, hlength⟩ := putsWalk_unterminated hne Config.memSize (s.reg 0)
  have hservice : effectOf (decode s.fetchWord) s = stringEffect s (putsWalk s.mem Config.memSize (s.reg 0)) := by
    rw [hdecode]
    rfl
  have hruns := unterminated_string_runs hrun hservice hended k
  rwa [hlength] at hruns

/-- Settles O30. -/
theorem unterminatedPutspRunsForEver : Obligations.UnterminatedPutspRunsForEver := by
  intro s hrun hdecode hne k
  obtain ⟨hended, hlength⟩ := putspWalk_unterminated hne Config.memSize (s.reg 0)
  have hservice : effectOf (decode s.fetchWord) s = stringEffect s (putspWalk s.mem Config.memSize (s.reg 0)) := by
    rw [hdecode]
    rfl
  have hruns := unterminated_string_runs hrun hservice hended k
  rwa [hlength] at hruns

end Sys2Proof.Proofs
end

section
/-! The canonical form of memory (spec 20_memory.md R50), the loader (70_reset_and_hazards.md R246), and the state after reset
(R240). -/

namespace Sys2Proof.Proofs

open Sys2Proof.Machine

/-! ### Canonical memories are their reads -/

/-- In a memory with rising keys a listed byte is the byte read under its key. -/
theorem byteAt_of_mem {m : Memory} (hrising : m.Pairwise fun c d => c.1 < d.1) {c : Host.Cell} (hc : c ∈ m) :
    m.byteAt c.1 = c.2 := by
  induction m with
  | nil => cases hc
  | cons d m ih =>
    obtain ⟨hd, hrest⟩ := List.pairwise_cons.1 hrising
    rcases List.mem_cons.1 hc with rfl | hc
    · exact if_pos rfl
    · exact (if_neg (Nat.ne_of_lt (hd c hc))).trans (ih hrest hc)

/-- A byte that does not read as unfilled is listed. -/
theorem mem_of_byteAt_ne {m : Memory} {k : Nat} (h : m.byteAt k ≠ Config.unfilledByte) : (k, m.byteAt k) ∈ m := by
  induction m with
  | nil => exact absurd rfl h
  | cons c m ih =>
    by_cases hc : c.1 = k
    · subst hc
      rw [Memory.byteAt, if_pos rfl]
      exact List.mem_cons_self
    · rw [Memory.byteAt, if_neg hc] at h ⊢
      exact List.mem_cons_of_mem c (ih h)

/-- What a canonical memory lists: the bytes that do not read as unfilled. -/
theorem mem_iff_of_wf {m : Memory} (hm : m.wf) (c : Host.Cell) :
    c ∈ m ↔ m.byteAt c.1 = c.2 ∧ c.2 ≠ Config.unfilledByte := by
  obtain ⟨hrising, hfilled⟩ := hm
  constructor
  · exact fun hc => ⟨byteAt_of_mem hrising hc, (hfilled c hc).1⟩
  · rintro ⟨hread, hne⟩
    have hmem := mem_of_byteAt_ne (m := m) (k := c.1) (by rwa [hread])
    rwa [hread] at hmem

/-- Past the last cell nothing is listed. -/
theorem byteAt_outside {m : Memory} (hm : m.wf) {k : Nat} (hk : 2 * Config.memSize ≤ k) :
    m.byteAt k = Config.unfilledByte := by
  refine m.byteAt_of_unlisted k fun c hc => ?_
  have hin := (hm.2 c hc).2
  omega

/-- A byte inside the memory is one of the two of its cell. -/
theorem byteAt_eq_of_reads {m n : Memory} (hreads : ∀ a, m.read a = n.read a) {k : Nat} (hk : k < 2 * Config.memSize) :
    m.byteAt k = n.byteAt k := by
  have hcell : (BitVec.ofNat 16 (k / 2)).toNat = k / 2 := by
    rw [BitVec.toNat_ofNat]
    simp only [Config.memSize] at hk
    omega
  have hlow : m.byteAt (2 * (k / 2)) = n.byteAt (2 * (k / 2)) := by
    rw [← hcell, ← Memory.read_low, ← Memory.read_low, hreads]
  have hhigh : m.byteAt (2 * (k / 2) + 1) = n.byteAt (2 * (k / 2) + 1) := by
    rw [← hcell, ← Memory.read_high, ← Memory.read_high, hreads]
  rcases Nat.even_or_odd' k with ⟨j, rfl | rfl⟩
  · rwa [Nat.mul_div_cancel_left j Nat.two_pos] at hlow
  · rwa [show (2 * j + 1) / 2 = j by omega] at hhigh

/-- Settles O48: reads that agree give bytes that agree, hence the same cells in two lists with rising keys. -/
theorem canonicalMemoryIsItsReads : Obligations.CanonicalMemoryIsItsReads := by
  intro m n hm hn hreads
  have hbytes (k : Nat) : m.byteAt k = n.byteAt k := by
    by_cases hk : k < 2 * Config.memSize
    · exact byteAt_eq_of_reads hreads hk
    · rw [byteAt_outside hm (Nat.le_of_not_lt hk), byteAt_outside hn (Nat.le_of_not_lt hk)]
  have hirrefl : Std.Irrefl fun c d : Host.Cell => c.1 < d.1 := ⟨fun c => Nat.lt_irrefl c.1⟩
  have hantisymm : Std.Antisymm fun c d : Host.Cell => c.1 < d.1 := ⟨fun _ _ hcd hdc => absurd hdc (Nat.lt_asymm hcd)⟩
  exact hm.1.eq_of_mem_iff hn.1 fun c => by rw [mem_iff_of_wf hm, mem_iff_of_wf hn, hbytes]

/-! ### The loader -/

/-- The bytes of an image's Words, the low byte of each first (70_reset_and_hazards.md R246). -/
def imageBytes (words : List Word) : List Byte := words.flatMap fun w => [slice w 7 0, slice w 15 8]

theorem placeWords_cons (m : Memory) {a : Nat} (ha : a < Config.memSize) (w : Word) (words : List Word) :
    placeWords m a (imageBytes (w :: words)) =
      placeWords (m.write (BitVec.ofNat 16 a) w) (a + 1) (imageBytes words) := by
  have hplaced : placeWords m a (slice w 7 0 :: slice w 15 8 :: imageBytes words) =
      placeWords (m.write (BitVec.ofNat 16 a) (slice w 15 8 ++ slice w 7 0 : Word)) (a + 1) (imageBytes words) :=
    if_pos ha
  rw [slice_append] at hplaced
  exact hplaced

/-- Words that fit are placed one after the other, and no other cell changes. -/
theorem placeWords_places (words : List Word) {m : Memory} (hm : m.wf) {a : Nat} (hfits : a + words.length ≤ Config.memSize) :
    ∃ m', placeWords m a (imageBytes words) = some m' ∧ m'.wf ∧
      (∀ k (h : k < words.length), m'.read (BitVec.ofNat 16 (a + k)) = words[k]) ∧
      ∀ b : Word, b.toNat < a ∨ a + words.length ≤ b.toNat → m'.read b = m.read b := by
  induction words generalizing m a with
  | nil => exact ⟨m, rfl, hm, fun k hk => absurd hk (Nat.not_lt_zero k), fun _ _ => rfl⟩
  | cons w words ih =>
    rw [List.length_cons] at hfits
    have ha : a < Config.memSize := by omega
    have hcell : (BitVec.ofNat 16 a).toNat = a := by
      rw [BitVec.toNat_ofNat]
      exact Nat.mod_eq_of_lt ha
    obtain ⟨m', hplace, hwf, hwords, hothers⟩ :=
      ih (Memory.write_wf m (BitVec.ofNat 16 a) w hm) (a := a + 1) (by omega)
    refine ⟨m', by rw [placeWords_cons m ha, hplace], hwf, fun k hk => ?placed, fun b hb => ?other⟩
    case placed =>
      cases k with
      | zero => rw [Nat.add_zero, hothers _ (by omega), Memory.read_write, if_pos rfl]; rfl
      | succ k =>
        rw [show a + (k + 1) = a + 1 + k by omega]
        exact hwords k (Nat.lt_of_succ_lt_succ hk)
    case other =>
      rw [List.length_cons] at hb
      have hne : b ≠ BitVec.ofNat 16 a := by
        rintro rfl
        omega
      rw [hothers b (by omega), Memory.read_write, if_neg hne]

/-- The loader reads the origin from the first two bytes and places the Words of the rest. -/
theorem loadImage_origin (origin : Word) (rest : List Byte) :
    loadImage (slice origin 7 0 :: slice origin 15 8 :: rest) = placeWords [] origin.toNat rest := by
  have hload : loadImage (slice origin 7 0 :: slice origin 15 8 :: rest) =
      placeWords [] (slice origin 15 8 ++ slice origin 7 0 : Word).toNat rest := rfl
  rwa [slice_append] at hload

/-- Settles O41. -/
theorem loaderPlacesImageWords : Obligations.LoaderPlacesImageWords := by
  intro origin words hfits
  obtain ⟨m, hplace, hwf, hwords, hothers⟩ := placeWords_places words State.reset_mem_wf hfits
  refine ⟨m, (loadImage_origin origin _).trans hplace, hwf, fun k hk => ?_, fun a ha => ?_⟩
  · have hcell : origin + BitVec.ofNat 16 k = BitVec.ofNat 16 (origin.toNat + k) := by
      rw [BitVec.ofNat_add, BitVec.ofNat_toNat, BitVec.setWidth_eq]
    rw [hcell]
    exact hwords k hk
  · exact (hothers a ha).trans (Memory.read_nil a)

/-! ### Reset -/

/-- Every register holds `REG_RESET` at the start of a session. -/
theorem launch_reg (m : Memory) (input : List Byte) (r : Reg) : (State.launch m input).reg r = 0x0000#16 :=
  Vector.getElem_replicate (n := 8) r.isLt

/-- Settles O39. -/
theorem resetStateValues : Obligations.ResetStateValues :=
  ⟨rfl, rfl, fun r => launch_reg [] [] r, rfl, rfl, fun a => Memory.read_nil a, rfl, rfl⟩

/-- Settles O40. -/
theorem resetEventKeepsOnlyMemory : Obligations.ResetEventKeepsOnlyMemory :=
  fun s input => ⟨⟨rfl, rfl⟩, fun _ => rfl, rfl, rfl, fun r => launch_reg s.mem input r, rfl, rfl, rfl⟩

end Sys2Proof.Proofs
end
